-- ==== Sys2Proof/Word.lean ====
section
/-! DEFINITION. The data values of 00_scope.md R9: words, 256-bit vectors (a BitVector, a matrix row, the step
count), the four-word tuple (a State or a JumpConstant) and the matrix as its list of rows. -/
namespace Sys2Proof

/-- A byte; only the byte-addressed wrapper of 20_memory.md R53 has any. -/
abbrev Byte := BitVec 8

/-- A 64-bit unsigned word, 00_scope.md R6 and R7: bit 0 is the least significant. -/
abbrev Word := BitVec 64

/-- 256 bits: a BitVector `v[0..255]`, one row of a matrix, or the step count `N` (00_scope.md R9, 10_state.md R23). -/
abbrev Row := BitVec 256

/-- A command word, 30_encoding.md R70. -/
abbrev CmdWord := BitVec 32

/-- A register index of the host port, 20_memory.md R50. -/
abbrev PortIndex := BitVec 8

/-- Which of the four words of a 256-bit register. -/
abbrev WordIdx := Fin 4

/-- Four 64-bit words: a State `(s0, s1, s2, s3)` or a JumpConstant, 00_scope.md R9. -/
structure Words4 where
  w0 : Word
  w1 : Word
  w2 : Word
  w3 : Word
  deriving DecidableEq, Repr

/-- A matrix over GF(2) as its rows, row 0 first; a Matrix of 00_scope.md R9 has 256 of them, and bit `c` of row
`r` is the element `M[r][c]` (10_state.md R37). -/
abbrev Matrix := List Row

end Sys2Proof
end

