-- ==== Sys2Proof/Syntax.lean ====
section
/-! DEFINITION. The syntax: the fifteen commands of 30_encoding.md R73 (`Instr`), the register names of 10_state.md
R42, the host events a script is made of (00_scope.md R14), and the script lines of 30_encoding.md R78 and R79. -/
namespace Sys2Proof

/-- The commands, one constructor per row of spec/opcode_table.json. Every operand is implicit (30_encoding.md R72,
R81); MVMUL's one argument, the matrix, is in the constructor because each of its words is a row of its own. -/
inductive Instr where
  /-- NOP, 0x00000000 -/
  | nop
  /-- STEP, 0x00000001 -/
  | step
  /-- ENC, 0x00000002 -/
  | enc
  /-- DEC, 0x00000003 -/
  | dec
  /-- BUILDT, 0x00000010 -/
  | buildT
  /-- BUILDK, 0x00000011 -/
  | buildK
  /-- INVK, 0x00000012 -/
  | invK
  /-- VERIFY, 0x00000013 -/
  | verify
  /-- INIT, 0x00000014 -/
  | init
  /-- MVMUL.T, 0x00000020 -/
  | mvmulT
  /-- MVMUL.K, 0x00000120 -/
  | mvmulK
  /-- MVMUL.KI, 0x00000220 -/
  | mvmulKI
  /-- JUMPGEN, 0x00000030 -/
  | jumpGen
  /-- JAPPLY, 0x00000031 -/
  | jApply
  /-- CLRERR, 0x0000003F -/
  | clrErr
  deriving DecidableEq, Repr

/-- The named locations of the register index space, 10_state.md R42; the reserved indices have no name. -/
inductive RegName where
  | cmd | status | err | errInfo | ctrl | nctl | maddr | mdata
  /-- `N0..N3` -/
  | n (w : WordIdx)
  /-- `S0..S3` -/
  | s (w : WordIdx)
  /-- `V0..V3` -/
  | v (w : WordIdx)
  /-- `J0..J3` -/
  | j (w : WordIdx)
  /-- words 0..3 of `REF128` -/
  | ref128 (w : WordIdx)
  /-- words 0..3 of `REF192` -/
  | ref192 (w : WordIdx)
  deriving DecidableEq, Repr

/-- One event the host brings about. A host script (00_scope.md R14) is a list of these. -/
inductive HostEvent where
  /-- A read access on the port, 20_memory.md R50, R55. -/
  | portRead (idx : PortIndex)
  /-- A write access on the port, 20_memory.md R50, R56. -/
  | portWrite (idx : PortIndex) (data : Word)
  /-- A pulse on the reset input, 70_reset_and_hazards.md R180, between two accesses (notes/assumptions/3.md). -/
  | rstN
  /-- A read of `size` bytes at byte offset `offset` from the core's base, on a byte-addressed wrapper,
  20_memory.md R53, R59 (notes/assumptions/4.md). -/
  | busRead (offset size : Nat)
  /-- A write of the bytes `bytes`, lowest offset first, on a byte-addressed wrapper, 20_memory.md R53, R59. -/
  | busWrite (offset : Nat) (bytes : List Byte)
  deriving DecidableEq, Repr

/-- Which matrix a `GETROW` line names, 30_encoding.md R79. -/
inductive MatName where
  | t | k | ki
  deriving DecidableEq, Repr

/-- A register as a script line names it: by name or by a numeric index, 30_encoding.md R78. -/
inductive RegRef where
  | name (r : RegName)
  | index (i : PortIndex)
  deriving DecidableEq, Repr

/-- The four 256-bit registers a `GETx` line can name, 30_encoding.md R79. -/
inductive DataReg where
  | s | v | j | n
  deriving DecidableEq, Repr

/-- A line of a host script: the four lines of 30_encoding.md R78 and the pseudo-instructions of R79. -/
inductive ScriptLine where
  /-- `<mnemonic>` -/
  | mnemonic (i : Instr)
  /-- `CMD <value>` -/
  | cmd (value : Word)
  /-- `WR <reg>, <value>` -/
  | wr (r : RegRef) (value : Word)
  /-- `RD <reg>` -/
  | rd (r : RegRef)
  /-- `SETN <n>`, 0 <= n < 2^256 -/
  | setN (n : Row)
  /-- `SETNEG` -/
  | setNeg
  /-- `SETS <a>, <b>, <c>, <d>` -/
  | setS (q : Words4)
  /-- `SETV <a>, <b>, <c>, <d>` -/
  | setV (q : Words4)
  /-- `SETJ <a>, <b>, <c>, <d>` -/
  | setJ (q : Words4)
  /-- `GETS`, `GETV`, `GETJ`, `GETN` -/
  | get (x : DataReg)
  /-- `GETROW <m>, <r>` -/
  | getRow (m : MatName) (r : BitVec 8)
  /-- `MVT`, `MVK`, `MVKI` -/
  | mv (m : MatName)
  /-- `SRST` -/
  | srst
  deriving DecidableEq, Repr

end Sys2Proof
end

