-- ==== Sys2Proof/WellFormed.lean ====
section
/-! DEFINITION. Which terms of the syntax the spec gives a meaning: every command (30_encoding.md R81), and every host
event but a wrapper access that is not an aligned access of 8 bytes to one of the core's 256 indices. -/
namespace Sys2Proof

/-- 30_encoding.md R81: "Every combination this type can express is legal". -/
def Instr.wf : Instr → Bool := fun _ => true

/-- 20_memory.md R59: on a byte-addressed wrapper "only an 8-byte access at an offset that is a multiple of 8 is
defined". -/
def busAligned (offset size : Nat) : Bool := size == 8 && offset % 8 == 0

/-- 20_memory.md R53: register index `x`, one of 256, is at byte offset `8 * x` from the core's base. -/
def busInBlock (offset : Nat) : Bool := decide (offset < 8 * 256)

/-- The host events the spec defines. -/
def HostEvent.wf : HostEvent → Bool
  | .portRead _ => true
  | .portWrite _ _ => true
  | .rstN => true
  | .busRead offset size => busAligned offset size && busInBlock offset
  | .busWrite offset bytes => busAligned offset bytes.length && busInBlock offset

end Sys2Proof
end

