-- ==== Sys2Proof/Decode.lean ====
section
/-! DEFINITION. The command decoder, total on all 2^32 words (30_encoding.md R75), which rejects by name, and the
encoder, both over the fields of format C (R71). Below them, the reading of a register index (10_state.md R42). -/
namespace Sys2Proof

/-- Why a word is illegal: the classes 30_encoding.md R76 lists (notes/assumptions/8.md). The machine answers all of
them alike, with IllegalCommand. -/
inductive IllegalWord where
  /-- a non-zero bit in 31:10 -/
  | reservedBits
  /-- an `op` other than the 13 of R73 -/
  | undefinedOp
  /-- `op = 0x20` with `m = 3` -/
  | matrixSelect3
  /-- a listed `op` other than 0x20 with `m != 0` -/
  | matrixSelectNotZero
  deriving DecidableEq, Repr

/-- Field `op`, bits 7:0. -/
def fieldOp (w : CmdWord) : BitVec 8 := w.extractLsb' 0 8

/-- Field `m`, bits 9:8. -/
def fieldM (w : CmdWord) : BitVec 2 := w.extractLsb' 8 2

/-- Field `z`, bits 31:10. -/
def fieldZ (w : CmdWord) : BitVec 22 := w.extractLsb' 10 22

/-- The `op` values of the commands other than MVMUL, 30_encoding.md R73. -/
def plainOp (op : BitVec 8) : Option Instr :=
  match op.toNat with
  | 0x00 => some .nop
  | 0x01 => some .step
  | 0x02 => some .enc
  | 0x03 => some .dec
  | 0x10 => some .buildT
  | 0x11 => some .buildK
  | 0x12 => some .invK
  | 0x13 => some .verify
  | 0x14 => some .init
  | 0x30 => some .jumpGen
  | 0x31 => some .jApply
  | 0x3F => some .clrErr
  | _ => none

/-- Field `m` of MVMUL, 30_encoding.md R72: 0 selects `T`, 1 `K`, 2 `K^{-1}`, 3 nothing. -/
def mvmulOf (m : BitVec 2) : Except IllegalWord Instr :=
  match m.toNat with
  | 0 => .ok .mvmulT
  | 1 => .ok .mvmulK
  | 2 => .ok .mvmulKI
  | _ => .error .matrixSelect3

/-- 30_encoding.md R75, `Decode(word)`. -/
def decode (w : CmdWord) : Except IllegalWord Instr :=
  if fieldZ w ≠ 0 then .error .reservedBits
  else if fieldOp w = 0x20#8 then mvmulOf (fieldM w)
  else
    match plainOp (fieldOp w) with
    | none => .error .undefinedOp
    | some i => if fieldM w = 0 then .ok i else .error .matrixSelectNotZero

/-- Field `op` of a command, 30_encoding.md R73. -/
def opField : Instr → BitVec 8
  | .nop => 0x00#8
  | .step => 0x01#8
  | .enc => 0x02#8
  | .dec => 0x03#8
  | .buildT => 0x10#8
  | .buildK => 0x11#8
  | .invK => 0x12#8
  | .verify => 0x13#8
  | .init => 0x14#8
  | .mvmulT => 0x20#8
  | .mvmulK => 0x20#8
  | .mvmulKI => 0x20#8
  | .jumpGen => 0x30#8
  | .jApply => 0x31#8
  | .clrErr => 0x3F#8

/-- Field `m` of a command, 30_encoding.md R73. -/
def mField : Instr → BitVec 2
  | .nop => 0#2
  | .step => 0#2
  | .enc => 0#2
  | .dec => 0#2
  | .buildT => 0#2
  | .buildK => 0#2
  | .invK => 0#2
  | .verify => 0#2
  | .init => 0#2
  | .mvmulT => 0#2
  | .mvmulK => 1#2
  | .mvmulKI => 2#2
  | .jumpGen => 0#2
  | .jApply => 0#2
  | .clrErr => 0#2

/-- The word of a command in format C, 30_encoding.md R71: `z` is 0 in every command. -/
def encode (i : Instr) : CmdWord := 0#22 ++ mField i ++ opField i

/-- What the decoder reads from a row of spec/opcode_table.json of `nbits` bits whose bits are `w`; the bits above
`nbits` are 0. A command word has no byte layout (20_memory.md R53), so its bits are taken as numbered
(notes/assumptions/11.md). -/
def decodeTableWord (nbits w : Nat) : Option Instr :=
  match decode (BitVec.ofNat 32 (w % 2 ^ nbits)) with
  | .ok i => some i
  | .error _ => none

/-- The map of 10_state.md R42, from index to register; `none` for the reserved indices 0x20..0xFF. -/
def regOfIndex (idx : PortIndex) : Option RegName :=
  let w : WordIdx := ⟨idx.toNat % 4, Nat.mod_lt _ (by decide)⟩
  match idx.toNat / 4 with
  | 0 => some (match w with | 0 => .cmd | 1 => .status | 2 => .err | 3 => .errInfo)
  | 1 => some (match w with | 0 => .ctrl | 1 => .nctl | 2 => .maddr | 3 => .mdata)
  | 2 => some (.n w)
  | 3 => some (.s w)
  | 4 => some (.v w)
  | 5 => some (.j w)
  | 6 => some (.ref128 w)
  | 7 => some (.ref192 w)
  | _ => none

/-- The same map from register to index. -/
def indexOfReg : RegName → PortIndex
  | .cmd => 0x00#8
  | .status => 0x01#8
  | .err => 0x02#8
  | .errInfo => 0x03#8
  | .ctrl => 0x04#8
  | .nctl => 0x05#8
  | .maddr => 0x06#8
  | .mdata => 0x07#8
  | .n w => 0x08#8 + BitVec.ofNat 8 w.val
  | .s w => 0x0C#8 + BitVec.ofNat 8 w.val
  | .v w => 0x10#8 + BitVec.ofNat 8 w.val
  | .j w => 0x14#8 + BitVec.ofNat 8 w.val
  | .ref128 w => 0x18#8 + BitVec.ofNat 8 w.val
  | .ref192 w => 0x1C#8 + BitVec.ofNat 8 w.val

end Sys2Proof
end

