-- ==== Sys2Proof/Config.lean ====
section
/-! DEFINITION. What is fixed for the machine: the two reference constants, and the one free value. Every other
parameter of 00_scope.md R6 is a literal of the definition that uses it. -/
namespace Sys2Proof.Config

/-- The reference constant for 2^128, 10_state.md R38. -/
def ref128 : Words4 :=
  ⟨0x180ec6d33cfd0aba#64, 0xd5a61266f0c9392c#64, 0xa9582618e03fc9aa#64, 0x39abdc4529b1661c#64⟩

/-- The reference constant for 2^192, 10_state.md R38. -/
def ref192 : Words4 :=
  ⟨0x76e15d3efefdcbbf#64, 0xc5004e441c522fb3#64, 0x77710069854ee241#64, 0x39109bb02acbe635#64⟩

/-- FREE VALUE (notes/assumptions/6.md): the content of row `row` of matrix store number `store` (0 `TS`, 1 `KS`,
2 `KIS`) that nothing has written since the store's content last became unspecified, the `epoch`-th time. 10_state.md
R40, R41: "unspecified"; 93_implementation_defined.md U7: "any value, and never observable". -/
opaque unspecifiedRow (store epoch row : Nat) : Row

end Sys2Proof.Config
end

