-- ==== Sys2Proof/Machine/State.lean ====
section
/-! DEFINITION. The state of the core, exactly what 10_state.md lists, with the host script and its position beside it
(00_scope.md R14); the stops of the model; the state after reset. -/
namespace Sys2Proof.Machine

/-- The three matrix stores, 10_state.md R36. -/
inductive StoreId where
  | TS | KS | KIS
  deriving DecidableEq, Repr

/-- The content of one matrix store, 10_state.md R36. The addressable unit is a whole row of 256 bits (20_memory.md
R59), so a cell is (row number, row); row numbers rise strictly, and a row nothing has written is not listed and reads
as the free value of `Config.unspecifiedRow` (notes/assumptions/5.md, 6.md). -/
structure RowStore where
  /-- MODEL'S OWN: how often the content has become unspecified; the free value's argument. -/
  epoch : Nat
  rows : List (Nat × Row)
  deriving DecidableEq, Repr

/-- The core's only memory: the three stores, 10_state.md R36. -/
structure Memory where
  TS : RowStore
  KS : RowStore
  KIS : RowStore
  deriving DecidableEq, Repr

/-- The values `ERR.CODE` can hold, 60_exceptions.md R160; "Values 5 to 15 never occur" (10_state.md R32). -/
inductive ErrCode where
  /-- 0: no fault recorded -/
  | none
  /-- 1: InvalidInput, not fatal -/
  | invalidInput
  /-- 2: Singular, fatal -/
  | singular
  /-- 3: VerifyMismatch, fatal -/
  | verifyMismatch
  /-- 4: IllegalCommand, not fatal -/
  | illegalCommand
  deriving DecidableEq, Repr

/-- A value a read of the script returned, 00_scope.md R14. -/
inductive Observed where
  /-- from a port read -/
  | word (w : Word)
  /-- from a wrapper read: the bytes, lowest offset first (20_memory.md R53) -/
  | bytes (bs : List Byte)
  deriving DecidableEq, Repr

/-- The state. The fields from `S` to `mem` are the architectural state, under the spec's names (10_state.md); the last
three are the model-level run of 00_scope.md R14, which the core can neither read nor change. -/
structure State where
  /-- R21 -/
  S : Words4
  /-- R22: bit `i` is `V[i]` -/
  V : Row
  /-- R23: the unsigned step count -/
  N : Row
  /-- R24 -/
  J : Words4
  /-- R27, R29 -/
  NEG : Bool
  /-- R27, R28 -/
  T_VALID : Bool
  /-- R27, R28 -/
  K_VALID : Bool
  /-- R27, R28 -/
  KI_VALID : Bool
  /-- R27, R28 -/
  VERIFIED : Bool
  /-- R27, R28 -/
  J_VALID : Bool
  /-- R32, `ERR.CODE` -/
  ERR_CODE : ErrCode
  /-- R33 -/
  ERRINFO : Word
  /-- R35 -/
  MADDR : BitVec 12
  /-- R36 -/
  mem : Memory
  /-- The host script, 00_scope.md R14. -/
  script : List HostEvent
  /-- The index of the next event of the script, 00_scope.md R14. -/
  pc : Nat
  /-- The values the script's reads returned, in order, 00_scope.md R14. -/
  obs : List Observed
  deriving DecidableEq, Repr

/-- The stop of a run. A fault of the HARDWARE is no stop: it is recorded in `ERR_CODE` and the run goes on
(60_exceptions.md R162, 00_scope.md R14). -/
inductive Fault where
  /-- Raised by `step` when the script has no further event: "The run ends when `pc` equals the length of the
  script" (00_scope.md R14). Safe: no behaviour of the core is cut off (notes/assumptions/2.md). -/
  | scriptEnded
  deriving DecidableEq, Repr

/-- What the model gives no meaning. -/
inductive Refusal where
  /-- Raised by `exec`'s arm of an instruction that has no meaning yet. Safe. No arm raises it. -/
  | notModelled (mnemonic : String)
  /-- Raised by a wrapper access that is not an aligned access of 8 bytes, 20_memory.md R59: "the model refuses any
  other access (gives it no meaning)". Safe (notes/assumptions/4.md). -/
  | undefinedBusAccess
  /-- Raised by a wrapper access at or above byte offset 2048, where the core has no index (20_memory.md R53). Safe
  (notes/assumptions/4.md). -/
  | busAddressOutsideBlock
  deriving DecidableEq, Repr

/-- The four zero words. -/
def zero4 : Words4 := ⟨0, 0, 0, 0⟩

/-- A store whose content is unspecified, at the model's first epoch (DESIGN CHOICE 0, notes/assumptions/6.md). -/
def RowStore.unwritten : RowStore := ⟨0, []⟩

/-- The state after reset, 10_state.md R41; the script is the host's and is empty until one is placed
(notes/assumptions/1.md). -/
def State.reset : State where
  S := zero4
  V := 0
  N := 0
  J := zero4
  NEG := false
  T_VALID := false
  K_VALID := false
  KI_VALID := false
  VERIFIED := false
  J_VALID := false
  ERR_CODE := .none
  ERRINFO := 0
  MADDR := 0
  mem := ⟨.unwritten, .unwritten, .unwritten⟩
  script := []
  pc := 0
  obs := []

end Sys2Proof.Machine
end

