-- ==== Sys2Proof/Machine/Flags.lean ====
section
/-! DEFINITION. The flags and the status view: the codes of 60_exceptions.md R160, `STATUS` with its derived bits
`ERRF` and `FATAL` (10_state.md R31), and the two level outputs (60_exceptions.md R171). There are no arithmetic
condition codes (10_state.md R27). -/
namespace Sys2Proof.Machine

/-- The number of a fault code, 60_exceptions.md R160: `ERR` bits 3:0. -/
def errNumber : ErrCode → BitVec 4
  | .none => 0#4
  | .invalidInput => 1#4
  | .singular => 2#4
  | .verifyMismatch => 3#4
  | .illegalCommand => 4#4

/-- `ERRF`, 10_state.md R31: 1 iff `ERR.CODE != 0`. -/
def errFlag (s : State) : Bool := s.ERR_CODE != .none

/-- A fault that only reset clears, 60_exceptions.md R160. -/
def isFatal : ErrCode → Bool
  | .singular => true
  | .verifyMismatch => true
  | .none => false
  | .invalidInput => false
  | .illegalCommand => false

/-- A fault that CLRERR clears, 44_system.md R151: codes 1 and 4. -/
def isClearable : ErrCode → Bool
  | .invalidInput => true
  | .illegalCommand => true
  | .none => false
  | .singular => false
  | .verifyMismatch => false

/-- `FATAL`, 10_state.md R31: 1 iff `ERR.CODE` is 2 or 3. -/
def fatalFlag (s : State) : Bool := isFatal s.ERR_CODE

/-- A flag as one bit of a 64-bit value. -/
def flagBit (b : Bool) (pos : Nat) : Word := if b then 1#64 <<< pos else 0#64

/-- `STATUS`, 10_state.md R31 and 20_memory.md R55. -/
def statusWord (s : State) : Word :=
  flagBit (fatalFlag s) 6 ||| flagBit (errFlag s) 5 ||| flagBit s.J_VALID 4 ||| flagBit s.VERIFIED 3
    ||| flagBit s.KI_VALID 2 ||| flagBit s.K_VALID 1 ||| flagBit s.T_VALID 0

/-- The output `fault`, 60_exceptions.md R171: 1 exactly while `ERR.CODE != 0`. -/
def faultOutput (s : State) : Bool := errFlag s

/-- The output `busy`, 60_exceptions.md R171: 1 exactly while a command runs. A state of the model stands between two
accesses, where no command runs (00_scope.md R13); `req_ready` is its complement (20_memory.md R54). -/
def busyOutput (_ : State) : Bool := false

/-- The valid flag of a store, 20_memory.md R61. -/
def storeValid (m : StoreId) (s : State) : Bool :=
  match m with
  | .TS => s.T_VALID
  | .KS => s.K_VALID
  | .KIS => s.KI_VALID

end Sys2Proof.Machine
end

