-- ==== Sys2Proof/Machine/Operands.lean ====
section
/-! DEFINITION. The operand forms: the codec between four words and 256 bits (40_statestep_codec.md R93, R94), which
also gives the four-word view of every 256-bit register (10_state.md R20 to R24), XOR on both forms, vectors built bit
by bit, and the byte order of a wrapper (20_memory.md R53). -/
namespace Sys2Proof.Machine

/-- Word `w` of a four-word value. -/
def wordOf (q : Words4) (w : WordIdx) : Word :=
  match w with
  | 0 => q.w0
  | 1 => q.w1
  | 2 => q.w2
  | 3 => q.w3

/-- The four-word value with word `w` replaced. -/
def withWord (q : Words4) (w : WordIdx) (d : Word) : Words4 :=
  match w with
  | 0 => { q with w0 := d }
  | 1 => { q with w1 := d }
  | 2 => { q with w2 := d }
  | 3 => { q with w3 := d }

/-- XOR word by word, 00_scope.md R8. -/
def xor4 (a b : Words4) : Words4 :=
  ⟨a.w0 ^^^ b.w0, a.w1 ^^^ b.w1, a.w2 ^^^ b.w2, a.w3 ^^^ b.w3⟩

/-- `encode`, 40_statestep_codec.md R93: element `i` of the result is bit `i % 64` of word `i / 64`, so word 0 is at
the least significant end. -/
def encodeState (q : Words4) : Row := q.w3 ++ q.w2 ++ q.w1 ++ q.w0

/-- `decode`, 40_statestep_codec.md R94: bit `k` of word `w` is element `64 * w + k`. -/
def decodeRow (v : Row) : Words4 :=
  ⟨v.extractLsb' 0 64, v.extractLsb' 64 64, v.extractLsb' 128 64, v.extractLsb' 192 64⟩

/-- Word `w` of a 256-bit register as the host sees it, 10_state.md R22, R23, R37. -/
def rowWord (v : Row) (w : WordIdx) : Word := wordOf (decodeRow v) w

/-- A 256-bit register with word `w` replaced, 20_memory.md R56. -/
def rowWithWord (v : Row) (w : WordIdx) (d : Word) : Row := encodeState (withWord (decodeRow v) w d)

/-- `e_i`, 00_scope.md R9: bit `i` set and every other bit 0. -/
def basisRow (i : Nat) : Row := 1#256 <<< i

/-- The 256-bit vector whose bit `i` is element `i` of the list (0 past its end). -/
def bitsToRow : List Bool → Row
  | [] => 0
  | b :: bs => (bitsToRow bs <<< 1) ||| (if b then 1 else 0)

/-- Byte `j` of a word on a wrapper: bits `8 * j + 7 : 8 * j`, 20_memory.md R53. -/
def wordByte (d : Word) (j : Nat) : Byte := d.extractLsb' (8 * j) 8

/-- The eight bytes of a word, lowest offset first, 20_memory.md R53. -/
def wordBytes (d : Word) : List Byte := (List.range 8).map (wordByte d)

/-- The word of a list of bytes, lowest offset first, 20_memory.md R53. -/
def wordOfBytes : List Byte → Word
  | [] => 0
  | b :: bs => (wordOfBytes bs <<< 8) ||| b.setWidth 64

end Sys2Proof.Machine
end

