-- ==== Sys2Proof/Machine/Ops.lean ====
section
/-! DEFINITION. The shared operations: MemRead and MemWrite on the matrix stores and their canonical form (10_state.md
R36, R37), the matrix window (20_memory.md R61), taking a fault (60_exceptions.md R162) and leaving one (R172), how a
raise ends a command (41_matrix_build.md R108), and Reset (70_reset_and_hazards.md R181). -/
namespace Sys2Proof.Machine

/-! ## The matrix stores -/

/-- The number of a store in `MADDR.MAT`, 10_state.md R35. -/
def storeNumber : StoreId → Nat
  | .TS => 0
  | .KS => 1
  | .KIS => 2

/-- The content of a store. -/
def storeOf (mem : Memory) : StoreId → RowStore
  | .TS => mem.TS
  | .KS => mem.KS
  | .KIS => mem.KIS

/-- The memory with one store replaced. -/
def withStore (mem : Memory) (m : StoreId) (st : RowStore) : Memory :=
  match m with
  | .TS => { mem with TS := st }
  | .KS => { mem with KS := st }
  | .KIS => { mem with KIS := st }

/-- The rows of a store with row `r` set to `v`: row numbers keep rising strictly. -/
def insertRow (r : Nat) (v : Row) : List (Nat × Row) → List (Nat × Row)
  | [] => [(r, v)]
  | (k, x) :: rest =>
    if r < k then (r, v) :: (k, x) :: rest
    else if r = k then (r, v) :: rest
    else (k, x) :: insertRow r v rest

/-- Row `r` of a store; a row nothing has written is a free value (notes/assumptions/6.md). -/
def readRow (m : StoreId) (st : RowStore) (r : Nat) : Row :=
  (st.rows.lookup r).getD (Config.unspecifiedRow (storeNumber m) st.epoch r)

/-- `MemRead(m, r)`, 00_scope.md R11. -/
def memRead (m : StoreId) (r : Nat) (s : State) : Row := readRow m (storeOf s.mem m) r

/-- A store with row `r` written. -/
def writeRow (st : RowStore) (r : Nat) (v : Row) : RowStore := { st with rows := insertRow r v st.rows }

/-- `MemWrite(m, r, v)`, 00_scope.md R11. -/
def memWrite (m : StoreId) (r : Nat) (v : Row) (s : State) : State :=
  { s with mem := withStore s.mem m (writeRow (storeOf s.mem m) r v) }

/-- Row `r` of a matrix value; a Matrix has rows 0..255 only (notes/assumptions/12.md says what the model gives past
them, which no command asks for). -/
def rowOf (M : Matrix) (r : Nat) : Row := M.getD r 0

/-- A store with rows 0..255 written, in that order, with the rows of a matrix. -/
def writeRows (st : RowStore) (M : Matrix) : RowStore :=
  (List.range 256).foldl (fun st r => writeRow st r (rowOf M r)) st

/-- The memory after `for r in 0..255: MemWrite(m, r, M[r])`, 42_inversion.md R117. -/
def memWithMatrix (mem : Memory) (m : StoreId) (M : Matrix) : Memory :=
  withStore mem m (writeRows (storeOf mem m) M)

/-- The matrix a store holds: row `r` is `MemRead(m, r)`, 10_state.md R36. -/
def readMatrix (m : StoreId) (s : State) : Matrix := (List.range 256).map (fun r => memRead m r s)

/-- A store whose content becomes unspecified: nothing is listed, and every row reads as a new free value
(notes/assumptions/6.md). -/
def loseRows (st : RowStore) : RowStore := ⟨st.epoch + 1, []⟩

/-- The canonical form of a store: strictly rising row numbers, all below 256. No cell equals what an unlisted row
reads as, because an unlisted row has no value of its own, only a free one. -/
abbrev RowStore.wf (st : RowStore) : Prop :=
  (st.rows.map Prod.fst).Pairwise (· < ·) ∧ ∀ k ∈ st.rows.map Prod.fst, k < 256

/-- The canonical form of the memory. -/
abbrev Memory.wf (mem : Memory) : Prop := mem.TS.wf ∧ mem.KS.wf ∧ mem.KIS.wf

/-! ## The window -/

/-- The store `MADDR.MAT` selects, 10_state.md R35; 3 is reserved. -/
def windowStore (mat : BitVec 2) : Option StoreId :=
  match mat.toNat with
  | 0 => some .TS
  | 1 => some .KS
  | 2 => some .KIS
  | _ => none

/-- `WindowRead(a)`, 20_memory.md R61. -/
def windowRead (a : BitVec 12) (s : State) : Word :=
  let w := a.extractLsb' 0 2
  let r := a.extractLsb' 2 8
  match windowStore (a.extractLsb' 10 2) with
  | none => 0
  | some m => if storeValid m s then rowWord (memRead m r.toNat s) w.toFin else 0

/-! ## Faults -/

/-- `raise F(info)`, 60_exceptions.md R162: the fault is recorded, and nothing else changes. That the command ends
here is `Stage.raised`. -/
def raise (f : ErrCode) (info : Word) (s : State) : State := { s with ERR_CODE := f, ERRINFO := info }

/-- Leaving a fault, 44_system.md R151 and 60_exceptions.md R172: codes 1 and 4 are cleared with `ERRINFO`; nothing
is restored, there being nothing saved. -/
def clearFault (s : State) : State :=
  if isClearable s.ERR_CODE then { s with ERR_CODE := .none, ERRINFO := 0 } else s

/-- How a stage of a command ends: normally, or in a raise, which ends the whole command with the writes made so far
standing (60_exceptions.md R162, 41_matrix_build.md R108). -/
inductive Stage where
  | done (s : State)
  | raised (s : State)
  deriving DecidableEq, Repr

/-- The state a stage leaves. -/
def stageState : Stage → State
  | .done s => s
  | .raised s => s

/-- Go on with `f` unless the stage raised, 41_matrix_build.md R108. -/
def andThen (x : Stage) (f : State → Stage) : Stage :=
  match x with
  | .done s => f s
  | .raised s => .raised s

/-! ## Reset -/

/-- `Reset()`, 70_reset_and_hazards.md R181: every piece of architectural state takes its reset value and the content
of the stores becomes unspecified. The host's script, its position and what it has read are the host's and stay
(notes/assumptions/3.md). -/
def resetCore (s : State) : State :=
  { State.reset with
    mem := ⟨loseRows s.mem.TS, loseRows s.mem.KS, loseRows s.mem.KIS⟩
    script := s.script
    pc := s.pc
    obs := s.obs }

end Sys2Proof.Machine
end

