-- ==== Sys2Proof/Machine/Gf2.lean ====
section
/-! DEFINITION. The algebra over GF(2): matrix-vector and matrix-matrix product (00_scope.md R10), matrices given by
their columns, and Gauss-Jordan inversion (42_inversion.md R116). -/
namespace Sys2Proof.Machine

/-- `XOR over c in 0..255 of (a[c] & b[c])`, 00_scope.md R10. -/
def dot (a b : Row) : Bool :=
  (List.range 256).foldl (fun acc c => acc ^^ (a.getLsbD c && b.getLsbD c)) false

/-- `MatVec(M, v)`, 00_scope.md R10: bit `r` of the result is the product of row `r` with `v`. -/
def matVec (M : Matrix) (v : Row) : Row := bitsToRow (M.map (fun row => dot row v))

/-- The XOR of the rows `B[k]` with `a[k] = 1`, counting `k` from `k0`: row combination, 00_scope.md R10. -/
def combineRows (a : Row) : Nat → Matrix → Row
  | _, [] => 0
  | k0, b :: bs => (if a.getLsbD k0 then b else 0) ^^^ combineRows a (k0 + 1) bs

/-- `MatMul(A, B)`, 00_scope.md R10, a whole row at a time: row `r` of the result is the XOR over `k` of
`A[r][k] & B[k]`. -/
def matMul (A B : Matrix) : Matrix := A.map (fun row => combineRows row 0 B)

/-- `I256`, 00_scope.md R9. -/
def identity : Matrix := (List.range 256).map basisRow

/-- The matrix with the given columns, column 0 first: bit `c` of row `r` is bit `r` of column `c`. -/
def ofColumns (cols : List Row) : Matrix :=
  (List.range 256).map (fun r => bitsToRow (cols.map (fun col => col.getLsbD r)))

/-- Column `c` of a matrix, 00_scope.md R9: `col(M, c)[r] = M[r][c]`. -/
def columnOf (M : Matrix) (c : Nat) : Row := bitsToRow (M.map (fun row => row.getLsbD c))

/-! ## Gauss-Jordan elimination -/

/-- What `GaussJordan` returns, 42_inversion.md R116. -/
inductive GJResult where
  | ok (inverse : Matrix)
  | fail (column : Nat)
  deriving DecidableEq, Repr

/-- A matrix with the augmented half beside it: row `r` of `w` and row `r` of `aug`, 42_inversion.md R116. -/
abbrev Augmented := List (Row × Row)

/-- The pivot scan, 42_inversion.md R116 and R121: rows `c..255`, lowest index first, for a 1 in column `c`. -/
def findPivot (rows : Augmented) (c : Nat) : Option Nat :=
  (List.range' c (256 - c)).find? (fun r => (rows.getD r (0, 0)).1.getLsbD c)

/-- Swap rows `p` and `c` of both halves, 42_inversion.md R116. -/
def swapRows (rows : Augmented) (p c : Nat) : Augmented :=
  (rows.set p (rows.getD c (0, 0))).set c (rows.getD p (0, 0))

/-- The elimination loop for column `c`, over the rows from number `r` on: every row but `c` with a 1 in column `c` is
XORed with the pivot row, in both halves (42_inversion.md R116). -/
def eliminate (c : Nat) (pivot : Row × Row) : Nat → Augmented → Augmented
  | _, [] => []
  | r, x :: xs =>
    (if r ≠ c ∧ x.1.getLsbD c then (x.1 ^^^ pivot.1, x.2 ^^^ pivot.2) else x) :: eliminate c pivot (r + 1) xs

/-- The loop over the pivot columns `cs`, 42_inversion.md R116. -/
def gaussJordanLoop : List Nat → Augmented → GJResult
  | [], rows => .ok (rows.map Prod.snd)
  | c :: cs, rows =>
    match findPivot rows c with
    | none => .fail c
    | some p =>
      let swapped := swapRows rows p c
      gaussJordanLoop cs (eliminate c (swapped.getD c (0, 0)) 0 swapped)

/-- `GaussJordan(A)`, 42_inversion.md R116. -/
def gaussJordan (A : Matrix) : GJResult := gaussJordanLoop (List.range 256) (A.zip identity)

end Sys2Proof.Machine
end

