-- ==== Sys2Proof/Machine/StateStepCodec.lean ====
section
/-! DEFINITION. StateStep (40_statestep_codec.md R90) and the commands STEP, ENC, DEC (R92, R95, R96). -/
namespace Sys2Proof.Machine

/-- `StateStep`, 40_statestep_codec.md R90, statement by statement. -/
def stateStep (q : Words4) : Words4 :=
  let t := q.w1 <<< 17
  let s2 := q.w2 ^^^ q.w0
  let s3 := q.w3 ^^^ q.w1
  let s1 := q.w1 ^^^ s2
  let s0 := q.w0 ^^^ s3
  let s2 := s2 ^^^ t
  let s3 := s3.rotateLeft 45
  ⟨s0, s1, s2, s3⟩

/-- STEP, 40_statestep_codec.md R92. -/
def execStep (s : State) : Host.Outcome State Fault Refusal := .next { s with S := stateStep s.S }

/-- ENC, 40_statestep_codec.md R95. -/
def execEnc (s : State) : Host.Outcome State Fault Refusal := .next { s with V := encodeState s.S }

/-- DEC, 40_statestep_codec.md R96. -/
def execDec (s : State) : Host.Outcome State Fault Refusal := .next { s with S := decodeRow s.V }

end Sys2Proof.Machine
end

