-- ==== Sys2Proof/Machine/MatrixBuild.lean ====
section
/-! DEFINITION. The transition matrix and the Krylov matrix, their stages and Ensure steps (41_matrix_build.md R100 to
R108), and the commands BUILDT and BUILDK (R103, R107). -/
namespace Sys2Proof.Machine

/-- Column `i` of `TMAT`, 41_matrix_build.md R100. -/
def tColumn (i : Nat) : Row := encodeState (stateStep (decodeRow (basisRow i)))

/-- `TMAT`, 41_matrix_build.md R100. -/
def tMat : Matrix := ofColumns ((List.range 256).map tColumn)

/-- The vectors `v, M v, M (M v), ...`, `n` of them, 41_matrix_build.md R106. -/
def krylov (M : Matrix) : Nat → Row → List Row
  | 0, _ => []
  | n + 1, v => v :: krylov M n (matVec M v)

/-- The matrix whose column `c` is `M^c e0`, 41_matrix_build.md R104. -/
def krylovMatrix (M : Matrix) : Matrix := ofColumns (krylov M 256 (basisRow 0))

/-- `KMAT`, 41_matrix_build.md R104. -/
def kMat : Matrix := krylovMatrix tMat

/-- Stage `DoBuildT`, 41_matrix_build.md R102. -/
def doBuildT (s : State) : State := { s with mem := memWithMatrix s.mem .TS tMat, T_VALID := true }

/-- Stage `DoBuildK`, 41_matrix_build.md R106: `T` is read from store `TS`. -/
def doBuildK (s : State) : State :=
  { s with mem := memWithMatrix s.mem .KS (krylovMatrix (readMatrix .TS s)), K_VALID := true }

/-- `EnsureT`, 41_matrix_build.md R108. -/
def ensureT (s : State) : State := if s.T_VALID then s else doBuildT s

/-- `EnsureK`, 41_matrix_build.md R108. -/
def ensureK (s : State) : State :=
  let s := ensureT s
  if s.K_VALID then s else doBuildK s

/-- BUILDT, 41_matrix_build.md R103. -/
def execBuildT (s : State) : Host.Outcome State Fault Refusal := .next (doBuildT s)

/-- BUILDK, 41_matrix_build.md R107. -/
def execBuildK (s : State) : Host.Outcome State Fault Refusal := .next (doBuildK (ensureT s))

end Sys2Proof.Machine
end

