-- ==== Sys2Proof/Machine/Inversion.lean ====
section
/-! DEFINITION. The inversion stage and its Ensure step (42_inversion.md R117, 41_matrix_build.md R108), and the
command INVK (42_inversion.md R118). -/
namespace Sys2Proof.Machine

/-- The content of store `KIS` becomes unspecified, 42_inversion.md R117 (notes/assumptions/7.md). -/
def loseKIS (s : State) : State := { s with mem := withStore s.mem .KIS (loseRows s.mem.KIS) }

/-- Stage `DoInvK`, 42_inversion.md R117. -/
def doInvK (s : State) : Stage :=
  let s := { s with KI_VALID := false, VERIFIED := false, J_VALID := false }
  match gaussJordan (readMatrix .KS s) with
  | .fail c => .raised (raise .singular (BitVec.ofNat 64 c) (loseKIS s))
  | .ok x => .done { s with mem := memWithMatrix s.mem .KIS x, KI_VALID := true }

/-- `EnsureKI`, 41_matrix_build.md R108. -/
def ensureKI (s : State) : Stage :=
  let s := ensureK s
  if s.KI_VALID then .done s else doInvK s

/-- INVK, 42_inversion.md R118. -/
def execInvK (s : State) : Host.Outcome State Fault Refusal := .next (stageState (doInvK (ensureK s)))

end Sys2Proof.Machine
end

