-- ==== Sys2Proof/Machine/Jump.lean ====
section
/-! DEFINITION. The jump derivation as functions (43_jump.md R125 to R128, R139), the verification stage and its Ensure
step (R135, 41_matrix_build.md R108), and the commands VERIFY, INIT, JUMPGEN and JAPPLY (43_jump.md R131, R136, R137,
R141). -/
namespace Sys2Proof.Machine

/-- One iteration of `PowVec`'s loop, 43_jump.md R125: `x.1` is the accumulator and `x.2` the running matrix. -/
def powStep (n : Row) (len : Nat) (x : Row × Matrix) (i : Nat) : Row × Matrix :=
  (if n.getLsbD i then matVec x.2 x.1 else x.1, if i < len - 1 then matMul x.2 x.2 else x.2)

/-- `L`, 43_jump.md R125: one more than the index of the highest bit of `n` that is 1 (`n` not 0). -/
def bitLength (n : Row) : Nat := 1 + Nat.log2 n.toNat

/-- `PowVec(n)` with `T = M`, 43_jump.md R125. -/
def powVec (M : Matrix) (n : Row) : Row :=
  if n = 0 then basisRow 0
  else ((List.range (bitLength n)).foldl (powStep n (bitLength n)) (basisRow 0, M)).1

/-- `JumpConstant(n)` with `T = M` and `K^{-1} = KI`, 43_jump.md R127 and R128. -/
def jumpConstant (M KI : Matrix) (n : Row) : Words4 := decodeRow (matVec KI (powVec M n))

/-- One iteration of `JumpApply`'s loop, 43_jump.md R139: `x.1` is `acc` and `x.2` is `t`. -/
def jumpStep (j : Words4) (x : Words4 × Words4) (b : Nat) : Words4 × Words4 :=
  (if (encodeState j).getLsbD b then xor4 x.1 x.2 else x.1, stateStep x.2)

/-- `JumpApply(j, s)`, 43_jump.md R139. Coefficient `b` is bit `b % 64` of `j[b / 64]`, which is bit `b` of the encoded
value. -/
def jumpApply (j q : Words4) : Words4 := ((List.range 256).foldl (jumpStep j) (zero4, q)).1

/-- Stage `DoVerify`, 43_jump.md R135: the constant for 2^128 first. -/
def doVerify (s : State) : Stage :=
  let s := { s with VERIFIED := false }
  if jumpConstant (readMatrix .TS s) (readMatrix .KIS s) (basisRow 128) ≠ Config.ref128 then
    .raised (raise .verifyMismatch 0 { s with J_VALID := false })
  else if jumpConstant (readMatrix .TS s) (readMatrix .KIS s) (basisRow 192) ≠ Config.ref192 then
    .raised (raise .verifyMismatch 1 { s with J_VALID := false })
  else .done { s with VERIFIED := true }

/-- `EnsureVerified`, 41_matrix_build.md R108. -/
def ensureVerified (s : State) : Stage :=
  andThen (ensureKI s) (fun s => if s.VERIFIED then .done s else doVerify s)

/-- `J <- JumpConstant(N)` and `J_VALID <- 1`, the end of 43_jump.md R131. -/
def emitJump (s : State) : State :=
  { s with J := jumpConstant (readMatrix .TS s) (readMatrix .KIS s) s.N, J_VALID := true }

/-- JUMPGEN as a stage, 43_jump.md R131: the sign is tested before any matrix work (R132). -/
def jumpGenStage (s : State) : Stage :=
  let s := { s with J_VALID := false }
  if s.NEG then .raised (raise .invalidInput 0 s)
  else andThen (ensureVerified s) (fun s => .done (emitJump s))

/-- JUMPGEN, 43_jump.md R131. -/
def execJumpGen (s : State) : Host.Outcome State Fault Refusal := .next (stageState (jumpGenStage s))

/-- VERIFY, 43_jump.md R136. -/
def execVerify (s : State) : Host.Outcome State Fault Refusal := .next (stageState (andThen (ensureKI s) doVerify))

/-- INIT, 43_jump.md R137. -/
def execInit (s : State) : Host.Outcome State Fault Refusal := .next (stageState (ensureVerified s))

/-- JAPPLY, 43_jump.md R141. -/
def execJApply (s : State) : Host.Outcome State Fault Refusal := .next { s with S := jumpApply s.J s.S }

end Sys2Proof.Machine
end

