-- ==== Sys2Proof/Machine/Product.lean ====
section
/-! DEFINITION. The matrix-vector product commands MVMUL.T, MVMUL.K and MVMUL.KI (41_matrix_build.md R109). -/
namespace Sys2Proof.Machine

/-- `V <- MatVec(store, V)`, 41_matrix_build.md R109: all of `V` is read before any of it is written. -/
def multiplyV (m : StoreId) (s : State) : State := { s with V := matVec (readMatrix m s) s.V }

/-- MVMUL.T, 41_matrix_build.md R109. -/
def execMvmulT (s : State) : Host.Outcome State Fault Refusal := .next (multiplyV .TS (ensureT s))

/-- MVMUL.K, 41_matrix_build.md R109. -/
def execMvmulK (s : State) : Host.Outcome State Fault Refusal := .next (multiplyV .KS (ensureK s))

/-- MVMUL.KI, 41_matrix_build.md R109: if the inversion raises, `V` is unchanged. -/
def execMvmulKI (s : State) : Host.Outcome State Fault Refusal :=
  .next (stageState (andThen (ensureKI s) (fun s => .done (multiplyV .KIS s))))

end Sys2Proof.Machine
end

