-- ==== Sys2Proof/Machine/System.lean ====
section
/-! DEFINITION. The commands that compute nothing: NOP and CLRERR (44_system.md R150, R151). -/
namespace Sys2Proof.Machine

/-- NOP, 44_system.md R150. -/
def execNop (s : State) : Host.Outcome State Fault Refusal := .next s

/-- CLRERR, 44_system.md R151. -/
def execClrErr (s : State) : Host.Outcome State Fault Refusal := .next (clearFault s)

end Sys2Proof.Machine
end

