-- ==== Sys2Proof/Machine/Dispatch.lean ====
section
/-! DEFINITION. The command rules by constructor: what a command does when RunCommand executes it (20_memory.md R57).
That a command is dropped while a fault is recorded is RunCommand's (Machine/Port.lean), not exec's
(notes/assumptions/13.md). -/
namespace Sys2Proof.Machine

def exec (i : Instr) (s : State) : Host.Outcome State Fault Refusal :=
  match i with
  | .nop => Sys2Proof.Machine.execNop s
  | .step => Sys2Proof.Machine.execStep s
  | .enc => Sys2Proof.Machine.execEnc s
  | .dec => Sys2Proof.Machine.execDec s
  | .buildT => Sys2Proof.Machine.execBuildT s
  | .buildK => Sys2Proof.Machine.execBuildK s
  | .invK => Sys2Proof.Machine.execInvK s
  | .verify => Sys2Proof.Machine.execVerify s
  | .init => Sys2Proof.Machine.execInit s
  | .mvmulT => Sys2Proof.Machine.execMvmulT s
  | .mvmulK => Sys2Proof.Machine.execMvmulK s
  | .mvmulKI => Sys2Proof.Machine.execMvmulKI s
  | .jumpGen => Sys2Proof.Machine.execJumpGen s
  | .jApply => Sys2Proof.Machine.execJApply s
  | .clrErr => Sys2Proof.Machine.execClrErr s

end Sys2Proof.Machine
end

