-- ==== Sys2Proof/Machine/Port.lean ====
section
/-! DEFINITION. The host port: PortRead (20_memory.md R55), RunCommand (R57), PortWrite (R56), the reset input
(70_reset_and_hazards.md R180), the byte-addressed wrapper (20_memory.md R53, R59), and one event of a host script
(00_scope.md R14). -/
namespace Sys2Proof.Machine

/-- The value of a named register as the port reads it, 20_memory.md R55. -/
def readReg (r : RegName) (s : State) : Word :=
  match r with
  | .cmd => 0
  | .status => statusWord s
  | .err => (errNumber s.ERR_CODE).setWidth 64
  | .errInfo => s.ERRINFO
  | .ctrl => 0
  | .nctl => if s.NEG then 1 else 0
  | .maddr => s.MADDR.setWidth 64
  | .mdata => windowRead s.MADDR s
  | .n w => rowWord s.N w
  | .s w => wordOf s.S w
  | .v w => rowWord s.V w
  | .j w => wordOf s.J w
  | .ref128 w => wordOf Config.ref128 w
  | .ref192 w => wordOf Config.ref192 w

/-- `PortRead(idx)`, 20_memory.md R55; a reserved index reads as 0 (R58). -/
def portRead (idx : PortIndex) (s : State) : Word :=
  match regOfIndex idx with
  | none => 0
  | some r => readReg r s

/-- `RunCommand(word)`, 20_memory.md R57: under a recorded fault only CLRERR acts (60_exceptions.md R165), and what it
does there is its own rule (44_system.md R151). -/
def runCommand (word : CmdWord) (s : State) : Host.Outcome State Fault Refusal :=
  if s.ERR_CODE ≠ .none then
    match decode word with
    | .ok .clrErr => exec .clrErr s
    | _ => .next s
  else
    match decode word with
    | .error _ => .next (raise .illegalCommand (word.setWidth 64) s)
    | .ok i => exec i s

/-- A write to a named register, 20_memory.md R56. -/
def writeReg (r : RegName) (d : Word) (s : State) : Host.Outcome State Fault Refusal :=
  match r with
  | .cmd => runCommand (d.setWidth 32) s
  | .ctrl => .next (if d.getLsbD 0 then resetCore s else s)
  | .nctl => .next { s with NEG := d.getLsbD 0 }
  | .maddr => .next { s with MADDR := d.setWidth 12 }
  | .n w => .next { s with N := rowWithWord s.N w d }
  | .s w => .next { s with S := withWord s.S w d }
  | .v w => .next { s with V := rowWithWord s.V w d }
  | .j w => .next { s with J := withWord s.J w d, J_VALID := false }
  | .status => .next s
  | .err => .next s
  | .errInfo => .next s
  | .mdata => .next s
  | .ref128 _ => .next s
  | .ref192 _ => .next s

/-- `PortWrite(idx, d)`, 20_memory.md R56; a write to a reserved index is ignored (R58). -/
def portWrite (idx : PortIndex) (d : Word) (s : State) : Host.Outcome State Fault Refusal :=
  match regOfIndex idx with
  | none => .next s
  | some r => writeReg r d s

/-- A value read by the script is appended to the observation, 00_scope.md R14. -/
def observe (o : Observed) (s : State) : State := { s with obs := s.obs ++ [o] }

/-- The port index of byte offset `offset` on a wrapper, 20_memory.md R53. -/
def busIndex (offset : Nat) : PortIndex := BitVec.ofNat 8 (offset / 8)

/-- A wrapper access: `k` if it is one the spec defines, and a refusal otherwise (20_memory.md R59). -/
def busAccess (offset size : Nat) (k : Host.Outcome State Fault Refusal) : Host.Outcome State Fault Refusal :=
  if !busAligned offset size then .refused .undefinedBusAccess
  else if !busInBlock offset then .refused .busAddressOutsideBlock
  else k

/-- What one host event does to the core, 20_memory.md R55 to R57. -/
def perform (e : HostEvent) (s : State) : Host.Outcome State Fault Refusal :=
  match e with
  | .portRead idx => .next (observe (.word (portRead idx s)) s)
  | .portWrite idx d => portWrite idx d s
  | .rstN => .next (resetCore s)
  | .busRead offset size =>
    busAccess offset size (.next (observe (.bytes (wordBytes (portRead (busIndex offset) s))) s))
  | .busWrite offset bytes =>
    busAccess offset bytes.length (portWrite (busIndex offset) (wordOfBytes bytes) s)

/-- `pc <- pc + 1`, 00_scope.md R14. -/
def advance (x : Host.Outcome State Fault Refusal) : Host.Outcome State Fault Refusal :=
  match x with
  | .next s => .next { s with pc := s.pc + 1 }
  | .fault f => .fault f
  | .refused r => .refused r

/-- The script with event `e` at position `pc`: the events before it stay (reads of a write-only register stand for
positions the script does not reach), the event there is replaced, the later ones stay. -/
def placeEvent (script : List HostEvent) (pc : Nat) (e : HostEvent) : List HostEvent :=
  script.take pc ++ List.replicate (pc - script.length) (.portRead 0x00#8) ++ e :: script.drop (pc + 1)

end Sys2Proof.Machine
end

