-- ==== Sys2Proof/Machine/Step.lean ====
section
/-! DEFINITION. One step of the machine, 00_scope.md R14: take event `pc` of the script, perform it, advance `pc`. -/
namespace Sys2Proof.Machine

/-- One step, 00_scope.md R14. Where the script has no event at `pc` the run has ended (notes/assumptions/2.md). -/
def step (s : State) : Host.Outcome State Fault Refusal :=
  match s.script[s.pc]? with
  | none => .fault .scriptEnded
  | some e => advance (perform e s)

/-- `s` with the next event of its script a write to `CMD` whose data bits 31:0 are the command word of the low `nbits`
bits of `w` (notes/assumptions/1.md). -/
def State.withFetchWord (s : State) (nbits w : Nat) : State :=
  { s with script := placeEvent s.script s.pc (.portWrite 0x00#8 (BitVec.ofNat 64 (w % 2 ^ nbits))) }

end Sys2Proof.Machine
end

