-- ==== Sys2Proof/Machine/Script.lean ====
section
/-! DEFINITION. The notation of host scripts, 30_encoding.md R78 and R79: the accesses each line stands for. -/
namespace Sys2Proof.Machine

/-- `PortWrite(index of <reg>, <value>)`. -/
def writeLine (r : RegName) (value : Word) : HostEvent := .portWrite (indexOfReg r) value

/-- `PortRead(index of <reg>)`. -/
def readLine (r : RegName) : HostEvent := .portRead (indexOfReg r)

/-- The access a mnemonic stands for, 30_encoding.md R78. -/
def commandLine (i : Instr) : HostEvent := writeLine .cmd ((encode i).setWidth 64)

/-- The index a script line names. -/
def indexOfRef : RegRef → PortIndex
  | .name r => indexOfReg r
  | .index i => i

/-- Four writes, word 0 first. -/
def writeFour (r : WordIdx → RegName) (q : Words4) : List HostEvent :=
  [writeLine (r 0) q.w0, writeLine (r 1) q.w1, writeLine (r 2) q.w2, writeLine (r 3) q.w3]

/-- Four reads, word 0 first. -/
def readFour (r : WordIdx → RegName) : List HostEvent := [readLine (r 0), readLine (r 1), readLine (r 2), readLine (r 3)]

/-- The number of a matrix in `GETROW`, 30_encoding.md R79: `T`, `K`, `KI` are 0, 1, 2. -/
def matNumber : MatName → BitVec 2
  | .t => 0#2
  | .k => 1#2
  | .ki => 2#2

/-- `(m << 10) | (r << 2) | w`, 30_encoding.md R79. -/
def windowAddress (m : MatName) (r : BitVec 8) (w : BitVec 2) : Word := (matNumber m ++ r ++ w).setWidth 64

/-- The two accesses of `GETROW` for word `w`. -/
def getRowWord (m : MatName) (r : BitVec 8) (w : BitVec 2) : List HostEvent :=
  [writeLine .maddr (windowAddress m r w), readLine .mdata]

/-- The accesses a script line expands to, 30_encoding.md R78 and R79. -/
def expandLine : ScriptLine → List HostEvent
  | .mnemonic i => [commandLine i]
  | .cmd value => [writeLine .cmd value]
  | .wr r value => [.portWrite (indexOfRef r) value]
  | .rd r => [.portRead (indexOfRef r)]
  | .setN n => writeFour .n (decodeRow n) ++ [writeLine .nctl 0]
  | .setNeg => [writeLine .nctl 1]
  | .setS q => writeFour .s q
  | .setV q => writeFour .v q
  | .setJ q => writeFour .j q
  | .get .s => readFour .s
  | .get .v => readFour .v
  | .get .j => readFour .j
  | .get .n => readFour .n
  | .getRow m r => getRowWord m r 0 ++ getRowWord m r 1 ++ getRowWord m r 2 ++ getRowWord m r 3
  | .mv .t => [commandLine .mvmulT]
  | .mv .k => [commandLine .mvmulK]
  | .mv .ki => [commandLine .mvmulKI]
  | .srst => [writeLine .ctrl 1]

/-- The host script a list of lines stands for. -/
def expandScript (lines : List ScriptLine) : List HostEvent := lines.flatMap expandLine

end Sys2Proof.Machine
end

