-- ==== Sys2Proof/Safety.lean ====
section
/-! DEFINITION. What the claims are stated in: elements and sums over GF(2), what a valid store holds (10_state.md R40),
the flag chain (R43), what a recorded fault's information can be (R33), what `VERIFIED` and `J_VALID` promise (R27), the
invariant they make together, and which states differ only in what cannot be observed (R40). A run is safe when its
states meet `Inv` and record no fatal fault. -/
namespace Sys2Proof.Machine

/-- `M[r][c]`, 00_scope.md R9. -/
def entry (M : Matrix) (r c : Nat) : Bool := (rowOf M r).getLsbD c

/-- `XOR over i in 0..n-1 of f(i)`, 00_scope.md R10. -/
def xorUpTo : Nat → (Nat → Bool) → Bool
  | 0, _ => false
  | n + 1, f => xorUpTo n f ^^ f n

/-- `A · B = I256` and `B · A = I256`, 42_inversion.md R115. -/
structure IsInverse (A B : Matrix) : Prop where
  right : matMul A B = identity
  left : matMul B A = identity

/-- Store `m` holds matrix `M`, 10_state.md R36. -/
def StoreHolds (m : StoreId) (M : Matrix) (s : State) : Prop := ∀ r < 256, memRead m r s = rowOf M r

/-- 10_state.md R43. -/
structure FlagChain (s : State) : Prop where
  jump : s.J_VALID = true → s.VERIFIED = true
  verified : s.VERIFIED = true → s.KI_VALID = true
  inverse : s.KI_VALID = true → s.K_VALID = true
  krylov : s.K_VALID = true → s.T_VALID = true

/-- 10_state.md R40: what each store holds while its valid flag is 1. -/
structure StoreContents (s : State) : Prop where
  ts : s.T_VALID = true → StoreHolds .TS tMat s
  ks : s.K_VALID = true → StoreHolds .KS kMat s
  kis : s.KI_VALID = true → IsInverse kMat (readMatrix .KIS s)

/-- 10_state.md R33, 60_exceptions.md R160: the information each recorded fault carries. -/
def ErrInfoMeaning (s : State) : Prop :=
  match s.ERR_CODE with
  | .none => s.ERRINFO = 0
  | .invalidInput => s.ERRINFO = 0
  | .singular => s.ERRINFO.toNat < 256
  | .verifyMismatch => s.ERRINFO = 0 ∨ s.ERRINFO = 1
  | .illegalCommand => ∃ word : CmdWord, s.ERRINFO = word.setWidth 64 ∧ ∀ i, decode word ≠ .ok i

/-- The jump constant for `n` from the stores of `s`, 43_jump.md R128. -/
def storedJump (s : State) (n : Row) : Words4 := jumpConstant (readMatrix .TS s) (readMatrix .KIS s) n

/-- 10_state.md R27: what `VERIFIED` and `J_VALID` mean when 1. -/
structure OutputMeaning (s : State) : Prop where
  verified128 : s.VERIFIED = true → storedJump s (basisRow 128) = Config.ref128
  verified192 : s.VERIFIED = true → storedJump s (basisRow 192) = Config.ref192
  jump : s.J_VALID = true → ∃ n, s.J = storedJump s n

/-- The invariant of the machine between two host accesses. -/
structure Inv (s : State) : Prop where
  canonical : s.mem.wf
  chain : FlagChain s
  contents : StoreContents s
  errInfo : ErrInfoMeaning s
  output : OutputMeaning s

/-- No fatal fault is recorded, 60_exceptions.md R160. -/
def NoFatal (s : State) : Prop := isFatal s.ERR_CODE = false

/-- A state from which every command runs, and what it computes is what the spec says. -/
structure Ready (s : State) : Prop where
  inv : Inv s
  noFault : s.ERR_CODE = .none

/-- The event resets the core: the reset input, or a write to `CTRL` with bit 0 = 1 (70_reset_and_hazards.md R181), on
the port or through a wrapper. -/
def resetsCore : HostEvent → Bool
  | .portRead _ => false
  | .portWrite idx d => idx == indexOfReg .ctrl && d.getLsbD 0
  | .rstN => true
  | .busRead _ _ => false
  | .busWrite offset bytes => busIndex offset == indexOfReg .ctrl && (wordOfBytes bytes).getLsbD 0

/-- Two states that differ at most in the content of stores whose valid flag is 0, which "cannot be observed"
(10_state.md R40). -/
structure SameObservable (s t : State) : Prop where
  rest : { s with mem := t.mem } = t
  stores : ∀ m, storeValid m s = true → ∀ r < 256, memRead m r s = memRead m r t

/-- The six flags of 10_state.md R27. -/
structure FlagValues where
  T_VALID : Bool
  K_VALID : Bool
  KI_VALID : Bool
  VERIFIED : Bool
  J_VALID : Bool
  NEG : Bool
  deriving DecidableEq, Repr

/-- The values the flags have in a state. -/
def flagsOf (s : State) : FlagValues := ⟨s.T_VALID, s.K_VALID, s.KI_VALID, s.VERIFIED, s.J_VALID, s.NEG⟩

/-- `x` applied `n` times, 43_jump.md R139: `StateStep` repeated. -/
def stepTimes (n : Nat) (q : Words4) : Words4 := stateStep^[n] q

end Sys2Proof.Machine
end

