-- ==== Sys2Proof/Certificates/Slice0/Obligations.lean ====
section
/-! DEFINITION. The statements for the provers. Each docstring names the rules of spec/ it formalises. A state is
`Ready` (Safety.lean) when it meets the invariant and no fault is recorded; State.reset is. -/

open Sys2Proof Sys2Proof.Machine

/-- The column "word" of 30_encoding.md R73. -/
def Sys2Proof.Spec.tableWord : Instr → CmdWord
  | .nop => 0x00000000#32
  | .step => 0x00000001#32
  | .enc => 0x00000002#32
  | .dec => 0x00000003#32
  | .buildT => 0x00000010#32
  | .buildK => 0x00000011#32
  | .invK => 0x00000012#32
  | .verify => 0x00000013#32
  | .init => 0x00000014#32
  | .mvmulT => 0x00000020#32
  | .mvmulK => 0x00000120#32
  | .mvmulKI => 0x00000220#32
  | .jumpGen => 0x00000030#32
  | .jApply => 0x00000031#32
  | .clrErr => 0x0000003F#32

/-- The index of word `w` of the register whose word 0 is at `base`, 10_state.md R42. -/
def Sys2Proof.Spec.indexAt (base : PortIndex) (w : WordIdx) : PortIndex := base + BitVec.ofNat 8 w.val

/-! ## Encoding -/

/-- A few words of the table, written out from format C (30_encoding.md R71, R73), and a few illegal ones (R76). -/
def Obligations.DecodeReadsWrittenOutWords : Prop :=
  decode 0b00000000000000000000000000000001#32 = .ok .step ∧
  decode 0b00000000000000000000000000010010#32 = .ok .invK ∧
  decode 0b00000000000000000000000100100000#32 = .ok .mvmulK ∧
  decode 0b00000000000000000000001000100000#32 = .ok .mvmulKI ∧
  decode 0b00000000000000000000000000110000#32 = .ok .jumpGen ∧
  decode 0b00000000000000000000000000111111#32 = .ok .clrErr ∧
  decode 0b00000000000000000000001100100000#32 = .error .matrixSelect3 ∧
  decode 0b00000000000000000000000100000001#32 = .error .matrixSelectNotZero ∧
  decode 0b00000000000000000000000000000100#32 = .error .undefinedOp ∧
  decode 0b10000000000000000000000000000001#32 = .error .reservedBits

/-- 30_encoding.md R73, R75, R76: of all 2^32 words exactly the fifteen of the table are commands, each its own; the
encoder writes those words; every other word is illegal. -/
def Obligations.DecodeAcceptsExactlyTheTable : Prop :=
  (∀ (w : CmdWord) (i : Instr), decode w = .ok i ↔ w = Sys2Proof.Spec.tableWord i) ∧
  (∀ i : Instr, i.wf = true ∧ encode i = Sys2Proof.Spec.tableWord i ∧ decode (encode i) = .ok i) ∧
  (∀ w : CmdWord, (∃ e, decode w = .error e) ↔ ∀ i, w ≠ Sys2Proof.Spec.tableWord i)

/-! ## The run -/

/-- 00_scope.md R14, 20_memory.md R57: when the event at `pc` is a write to `CMD` whose low half decodes to a command and
no fault is recorded, the step is that command's rule, and then `pc` advances. -/
def Obligations.StepRunsDecodedCommand : Prop :=
  ∀ (s : State) (d : Word) (i : Instr),
    s.script[s.pc]? = some (.portWrite 0x00#8 d) → decode (d.extractLsb' 0 32) = .ok i → s.ERR_CODE = .none →
    step s = (match exec i s with
      | .next t => .next { t with pc := t.pc + 1 }
      | .fault f => .fault f
      | .refused r => .refused r)

/-- 00_scope.md R14: a step performs event `pc` of the script and advances `pc` by one; it never changes the script, and
appends to the observation exactly the value a read returns. Where the script has no event at `pc` the run has ended.
The model's own choices in it: that a reset pulse takes a position of the script and advances `pc` as an access does
(notes/assumptions/3.md), that a wrapper access is an event and its read is observed as bytes (notes/assumptions/4.md),
and the name of the stop (notes/assumptions/2.md). -/
def Obligations.StepAdvancesPositionAndKeepsScript : Prop :=
  (∀ (s t : State), step s = .next t →
    t.pc = s.pc + 1 ∧ t.script = s.script ∧
    ∃ e, s.script[s.pc]? = some e ∧
      (∃ u, perform e s = .next u ∧ t = { u with pc := u.pc + 1 }) ∧
      match e with
      | .portRead idx => t.obs = s.obs ++ [.word (portRead idx s)]
      | .busRead offset _ => t.obs = s.obs ++ [.bytes (wordBytes (portRead (busIndex offset) s))]
      | _ => t.obs = s.obs) ∧
  (∀ s : State, s.script.length ≤ s.pc → step s = .fault .scriptEnded)

/-- 70_reset_and_hazards.md R190: "a run of a finite host script is finite". From any state, a script of events the spec
defines runs event by event to its end, and there the run ends: that its end is the stop `scriptEnded` is the model's
choice (notes/assumptions/2.md). -/
def Obligations.EveryScriptRunsToItsEnd : Prop :=
  ∀ (s : State) (k : Nat), (∀ e ∈ s.script, e.wf = true) → s.pc + k ≤ s.script.length →
    ∃ t : State, Host.Core.run Sys2Proof.core k s = .next t ∧ t.pc = s.pc + k ∧ t.script = s.script ∧
      (s.pc + k = s.script.length → step t = .fault .scriptEnded)

/-- 30_encoding.md R79: the accesses `SETN <n>` stands for load `N` and clear `NEG`, and those of `GETROW <m>, <r>` read
the four words of a row of a valid store. -/
def Obligations.SetnLoadsNAndGetrowReadsRow : Prop :=
  (∀ (s : State) (n : Row), s.script = expandLine (.setN n) → s.pc = 0 →
    Host.Core.run Sys2Proof.core 5 s = .next { s with N := n, NEG := false, pc := 5 }) ∧
  (∀ (s : State) (m : MatName) (r : BitVec 8) (st : StoreId),
    st = (match m with | .t => .TS | .k => .KS | .ki => .KIS) → storeValid st s = true →
    s.script = expandLine (.getRow m r) → s.pc = 0 →
    ∃ (a : BitVec 12) (w0 w1 w2 w3 : Word),
      Host.Core.run Sys2Proof.core 8 s
        = .next { s with MADDR := a, pc := 8, obs := s.obs ++ [.word w0, .word w1, .word w2, .word w3] } ∧
      w3 ++ w2 ++ w1 ++ w0 = memRead st r.toNat s)

/-! ## The port -/

/-- 20_memory.md R55: what a read of every index returns, and that a read changes no state but the observation. -/
def Obligations.PortReadReturnsRegisters : Prop :=
  ∀ s : State,
    (∀ idx, perform (.portRead idx) s = .next { s with obs := s.obs ++ [.word (portRead idx s)] }) ∧
    portRead 0x00#8 s = 0 ∧
    (∀ k < 64, (portRead 0x01#8 s).getLsbD k =
      match k with
      | 0 => s.T_VALID
      | 1 => s.K_VALID
      | 2 => s.KI_VALID
      | 3 => s.VERIFIED
      | 4 => s.J_VALID
      | 5 => decide (s.ERR_CODE ≠ .none)
      | 6 => decide (s.ERR_CODE = .singular ∨ s.ERR_CODE = .verifyMismatch)
      | _ => false) ∧
    portRead 0x02#8 s =
      (match s.ERR_CODE with
        | .none => 0
        | .invalidInput => 1
        | .singular => 2
        | .verifyMismatch => 3
        | .illegalCommand => 4) ∧
    portRead 0x03#8 s = s.ERRINFO ∧
    portRead 0x04#8 s = 0 ∧
    (∀ k < 64, (portRead 0x05#8 s).getLsbD k = (decide (k = 0) && s.NEG)) ∧
    (∀ k < 64, (portRead 0x06#8 s).getLsbD k = (decide (k < 12) && s.MADDR.getLsbD k)) ∧
    portRead 0x07#8 s = windowRead s.MADDR s ∧
    (∀ w : WordIdx,
      (∀ k < 64, (portRead (Sys2Proof.Spec.indexAt 0x08#8 w) s).getLsbD k = s.N.getLsbD (64 * w.val + k)) ∧
      portRead (Sys2Proof.Spec.indexAt 0x0C#8 w) s = wordOf s.S w ∧
      (∀ k < 64, (portRead (Sys2Proof.Spec.indexAt 0x10#8 w) s).getLsbD k = s.V.getLsbD (64 * w.val + k)) ∧
      portRead (Sys2Proof.Spec.indexAt 0x14#8 w) s = wordOf s.J w ∧
      portRead (Sys2Proof.Spec.indexAt 0x18#8 w) s = wordOf Config.ref128 w ∧
      portRead (Sys2Proof.Spec.indexAt 0x1C#8 w) s = wordOf Config.ref192 w) ∧
    (∀ idx : PortIndex, 0x20 ≤ idx.toNat → portRead idx s = 0)

/-- 20_memory.md R61: the window, with `MAT`, `ROW` and `W` where 10_state.md R35 puts them; it is read only: no register
write changes a store. -/
def Obligations.WindowReadsValidStores : Prop :=
  (∀ (s : State) (mat : BitVec 2) (row : BitVec 8) (w : BitVec 2), ∀ k < 64,
    (windowRead (mat ++ row ++ w) s).getLsbD k =
      match mat.toNat with
      | 0 => s.T_VALID && (memRead .TS row.toNat s).getLsbD (64 * w.toNat + k)
      | 1 => s.K_VALID && (memRead .KS row.toNat s).getLsbD (64 * w.toNat + k)
      | 2 => s.KI_VALID && (memRead .KIS row.toNat s).getLsbD (64 * w.toNat + k)
      | _ => false) ∧
  (∀ (s t : State) (idx : PortIndex) (d : Word), idx ≠ 0x00#8 → idx ≠ 0x04#8 → portWrite idx d s = .next t →
    t.mem = s.mem ∧ (idx = 0x07#8 → t = s))

/-- 20_memory.md R56: what a write to every index does, and that it does nothing else. -/
def Obligations.PortWriteStoresRegisters : Prop :=
  ∀ (s : State) (d : Word),
    portWrite 0x00#8 d s = runCommand (d.extractLsb' 0 32) s ∧
    portWrite 0x04#8 d s = (if d.getLsbD 0 then perform .rstN s else .next s) ∧
    portWrite 0x05#8 d s = .next { s with NEG := d.getLsbD 0 } ∧
    portWrite 0x06#8 d s = .next { s with MADDR := d.extractLsb' 0 12 } ∧
    (∀ w : WordIdx,
      (∃ n, portWrite (Sys2Proof.Spec.indexAt 0x08#8 w) d s = .next { s with N := n } ∧
        ∀ w' : WordIdx, ∀ k < 64, n.getLsbD (64 * w'.val + k) =
          if w' = w then d.getLsbD k else s.N.getLsbD (64 * w'.val + k)) ∧
      (∃ q, portWrite (Sys2Proof.Spec.indexAt 0x0C#8 w) d s = .next { s with S := q } ∧
        ∀ w' : WordIdx, wordOf q w' = if w' = w then d else wordOf s.S w') ∧
      (∃ v, portWrite (Sys2Proof.Spec.indexAt 0x10#8 w) d s = .next { s with V := v } ∧
        ∀ w' : WordIdx, ∀ k < 64, v.getLsbD (64 * w'.val + k) =
          if w' = w then d.getLsbD k else s.V.getLsbD (64 * w'.val + k)) ∧
      (∃ q, portWrite (Sys2Proof.Spec.indexAt 0x14#8 w) d s = .next { s with J := q, J_VALID := false } ∧
        ∀ w' : WordIdx, wordOf q w' = if w' = w then d else wordOf s.J w')) ∧
    (∀ idx : PortIndex,
      idx.toNat = 0x01 ∨ idx.toNat = 0x02 ∨ idx.toNat = 0x03 ∨ idx.toNat = 0x07 ∨ 0x18 ≤ idx.toNat →
      portWrite idx d s = .next s)

/-- 20_memory.md R58: reserved indices and reserved bits read as 0 and ignore writes, writes to read-only locations are
ignored, and none of these raises a fault. -/
def Obligations.ReservedLocationsReadZeroIgnoreWrites : Prop :=
  ∀ (s : State) (d d' : Word),
    (∀ idx : PortIndex, 0x20 ≤ idx.toNat → portRead idx s = 0 ∧ portWrite idx d s = .next s) ∧
    (portRead 0x01#8 s).toNat < 2 ^ 7 ∧ (portRead 0x02#8 s).toNat < 2 ^ 4 ∧
    (portRead 0x05#8 s).toNat < 2 ^ 1 ∧ (portRead 0x06#8 s).toNat < 2 ^ 12 ∧
    (d.getLsbD 0 = d'.getLsbD 0 →
      portWrite 0x04#8 d s = portWrite 0x04#8 d' s ∧ portWrite 0x05#8 d s = portWrite 0x05#8 d' s) ∧
    (d.extractLsb' 0 12 = d'.extractLsb' 0 12 → portWrite 0x06#8 d s = portWrite 0x06#8 d' s) ∧
    (∀ idx : PortIndex,
      idx.toNat = 0x01 ∨ idx.toNat = 0x02 ∨ idx.toNat = 0x03 ∨ idx.toNat = 0x07 ∨
        (0x18 ≤ idx.toNat ∧ idx.toNat ≤ 0x1F) →
      portWrite idx d s = .next s)

/-- 10_state.md R20 (no register is hardwired, no two alias), 20_memory.md R64: a word written to a data register reads
back, and the fifteen other words of `N`, `S`, `V`, `J` read as before. -/
def Obligations.WrittenWordReadsBackAndOthersKeep : Prop :=
  ∀ (s : State) (d : Word) (x y : PortIndex),
    0x08 ≤ x.toNat → x.toNat ≤ 0x17 → 0x08 ≤ y.toNat → y.toNat ≤ 0x17 →
    ∃ t, portWrite x d s = .next t ∧ portRead x t = d ∧ (y ≠ x → portRead y t = portRead y s)

/-- 20_memory.md R57 with 10_state.md R30: the order of the tests a `CMD` write makes, whatever data bits 63:32 hold; the
register stores nothing. -/
def Obligations.RunCommandOrder : Prop :=
  ∀ (s : State) (d : Word),
    portRead 0x00#8 s = 0 ∧
    portWrite 0x00#8 d s =
      if s.ERR_CODE ≠ .none then
        if d.extractLsb' 0 32 = 0x0000003F#32 ∧ (s.ERR_CODE = .invalidInput ∨ s.ERR_CODE = .illegalCommand) then
          .next { s with ERR_CODE := .none, ERRINFO := 0 }
        else .next s
      else
        match decode (d.extractLsb' 0 32) with
        | .error _ => .next { s with ERR_CODE := .illegalCommand, ERRINFO := (d.extractLsb' 0 32).setWidth 64 }
        | .ok i => exec i s

/-- 20_memory.md R53, R59: on a byte-addressed wrapper the aligned 8-byte accesses are the port's accesses, with the bytes
of a word little-endian; every other access has no meaning (the names of the refusals are the model's,
notes/assumptions/4.md). -/
def Obligations.WrapperAccessesAreAlignedWords : Prop :=
  ∀ (s : State) (x : PortIndex),
    (∃ bs : List Byte, bs.length = 8 ∧
      perform (.busRead (8 * x.toNat) 8) s = .next { s with obs := s.obs ++ [.bytes bs] } ∧
      ∀ j < 8, ∀ b < 8, (bs.getD j 0).getLsbD b = (portRead x s).getLsbD (8 * j + b)) ∧
    (∀ bs : List Byte, bs.length = 8 →
      ∃ d : Word, perform (.busWrite (8 * x.toNat) bs) s = portWrite x d s ∧
        ∀ j < 8, ∀ b < 8, d.getLsbD (8 * j + b) = (bs.getD j 0).getLsbD b) ∧
    (∀ (offset size : Nat) (bs : List Byte), size ≠ 8 ∨ offset % 8 ≠ 0 → bs.length = size →
      perform (.busRead offset size) s = .refused .undefinedBusAccess ∧
      perform (.busWrite offset bs) s = .refused .undefinedBusAccess) ∧
    (∀ (offset : Nat) (bs : List Byte), 2048 ≤ offset → offset % 8 = 0 → bs.length = 8 →
      perform (.busRead offset 8) s = .refused .busAddressOutsideBlock ∧
      perform (.busWrite offset bs) s = .refused .busAddressOutsideBlock)

/-! ## Reset -/

/-- 10_state.md R41: the state after reset; seen from the port, every index reads 0 but the reference constants. -/
def Obligations.ResetLeavesResetValues : Prop :=
  State.reset.S = ⟨0, 0, 0, 0⟩ ∧ State.reset.V = 0 ∧ State.reset.N = 0 ∧ State.reset.J = ⟨0, 0, 0, 0⟩ ∧
  State.reset.NEG = false ∧ State.reset.T_VALID = false ∧ State.reset.K_VALID = false ∧
  State.reset.KI_VALID = false ∧ State.reset.VERIFIED = false ∧ State.reset.J_VALID = false ∧
  State.reset.ERR_CODE = .none ∧ State.reset.ERRINFO = 0 ∧ State.reset.MADDR = 0 ∧
  (∀ idx : PortIndex, idx.toNat < 0x18 ∨ 0x20 ≤ idx.toNat → portRead idx State.reset = 0) ∧
  (∀ w : WordIdx, portRead (Sys2Proof.Spec.indexAt 0x18#8 w) State.reset = wordOf Config.ref128 w ∧
    portRead (Sys2Proof.Spec.indexAt 0x1C#8 w) State.reset = wordOf Config.ref192 w)

/-- 70_reset_and_hazards.md R181, 10_state.md R34: a write to `CTRL` with bit 0 = 1 does what the reset input does, in
every state, under a recorded fault too; bits 63:1 are ignored and bit 0 = 0 does nothing. Nothing is said of the stores,
whose content is unspecified; that the host's script stays is notes/assumptions/3.md. -/
def Obligations.SoftwareResetEqualsResetInput : Prop :=
  ∀ (s : State) (d : Word),
    (∃ mem, perform .rstN s =
      .next { State.reset with mem := mem, script := s.script, pc := s.pc, obs := s.obs }) ∧
    (d.getLsbD 0 = true → portWrite 0x04#8 d s = perform .rstN s) ∧
    (d.getLsbD 0 = false → portWrite 0x04#8 d s = .next s) ∧
    portRead 0x04#8 s = 0

/-! ## StateStep and the codec -/

/-- 40_statestep_codec.md R90, R92: STEP writes `S` with the seven statements of the algorithm, and nothing else. -/
def Obligations.StepCommandRunsStateStep : Prop :=
  ∀ s : State,
    exec .step s = .next { s with S :=
      let t := s.S.w1 <<< 17
      let s2 := s.S.w2 ^^^ s.S.w0
      let s3 := s.S.w3 ^^^ s.S.w1
      let s1 := s.S.w1 ^^^ s2
      let s0 := s.S.w0 ^^^ s3
      let s2 := s2 ^^^ t
      let s3 := (s3 <<< 45) ||| (s3 >>> 19)
      ⟨s0, s1, s2, s3⟩ }

/-- 40_statestep_codec.md R91 (marked there as derived from R90): the closed form by words and by bits, and linearity. -/
def Obligations.StateStepClosedFormAndLinear : Prop :=
  (∀ a b c d : Word,
    stateStep ⟨a, b, c, d⟩
      = ⟨a ^^^ b ^^^ d, a ^^^ b ^^^ c, a ^^^ c ^^^ (b <<< 17), (b ^^^ d).rotateLeft 45⟩ ∧
    ∀ k < 64,
      (stateStep ⟨a, b, c, d⟩).w0.getLsbD k = (a.getLsbD k ^^ b.getLsbD k ^^ d.getLsbD k) ∧
      (stateStep ⟨a, b, c, d⟩).w1.getLsbD k = (a.getLsbD k ^^ b.getLsbD k ^^ c.getLsbD k) ∧
      (stateStep ⟨a, b, c, d⟩).w2.getLsbD k
        = (a.getLsbD k ^^ c.getLsbD k ^^ (decide (17 ≤ k) && b.getLsbD (k - 17))) ∧
      (stateStep ⟨a, b, c, d⟩).w3.getLsbD k = (b.getLsbD ((k + 19) % 64) ^^ d.getLsbD ((k + 19) % 64))) ∧
  (∀ x y : Words4, stateStep (xor4 x y) = xor4 (stateStep x) (stateStep y)) ∧
  stateStep ⟨0, 0, 0, 0⟩ = ⟨0, 0, 0, 0⟩

/-- 40_statestep_codec.md R93, R95: ENC writes `V` with bit `64 * w + k` equal to bit `k` of `S[w]`, and nothing else; the
host then reads the words of `S` from `V0..V3`. -/
def Obligations.EncWritesEncodedState : Prop :=
  ∀ s : State, ∃ v, exec .enc s = .next { s with V := v } ∧
    (∀ w : WordIdx, ∀ k < 64, v.getLsbD (64 * w.val + k) = (wordOf s.S w).getLsbD k) ∧
    (∀ w : WordIdx, portRead (Sys2Proof.Spec.indexAt 0x10#8 w) { s with V := v } = wordOf s.S w)

/-- 40_statestep_codec.md R94, R96: DEC writes `S` with bit `k` of `S[w]` equal to `V[64 * w + k]`, and nothing else. -/
def Obligations.DecWritesDecodedVector : Prop :=
  ∀ s : State, ∃ q, exec .dec s = .next { s with S := q } ∧
    ∀ w : WordIdx, ∀ k < 64, (wordOf q w).getLsbD k = s.V.getLsbD (64 * w.val + k)

/-- 40_statestep_codec.md R97: the round trips, of the codec and of the commands. -/
def Obligations.CodecRoundTrip : Prop :=
  (∀ q : Words4, decodeRow (encodeState q) = q) ∧
  (∀ v : Row, encodeState (decodeRow v) = v) ∧
  (∀ (q : Words4) (w : WordIdx), rowWord (encodeState q) w = wordOf q w) ∧
  (∀ s t u : State, exec .enc s = .next t → exec .dec t = .next u → u.S = s.S) ∧
  (∀ s t u : State, exec .dec s = .next t → exec .enc t = .next u → u.V = s.V)

/-! ## Matrices -/

/-- 00_scope.md R10: the elements of the two products are XORs of ANDs, and the product of matrices is the composition of
the maps. -/
def Obligations.ProductsAreXorsOfAnds : Prop :=
  ∀ (A B : Matrix) (v : Row), A.length = 256 → B.length = 256 →
    (∀ r < 256, (matVec A v).getLsbD r = xorUpTo 256 (fun c => entry A r c && v.getLsbD c)) ∧
    (∀ r < 256, ∀ c < 256, entry (matMul A B) r c = xorUpTo 256 (fun k => entry A r k && entry B k c)) ∧
    matVec (matMul A B) v = matVec A (matVec B v)

/-- 41_matrix_build.md R110: linearity, for any matrix. -/
def Obligations.MatVecIsLinear : Prop :=
  ∀ (M : Matrix) (a b : Row), matVec M (a ^^^ b) = matVec M a ^^^ matVec M b

/-- 41_matrix_build.md R100, R102, R103: BUILDT fills store `TS` with the matrix whose column `c` is the encoding of the
stepped basis state `c`, sets `T_VALID`, and does nothing else. -/
def Obligations.BuildTFillsStoreWithSteppedBasis : Prop :=
  ∀ s : State, ∃ ts : RowStore,
    exec .buildT s = .next { s with mem := { s.mem with TS := ts }, T_VALID := true } ∧
    ∀ r < 256, ∀ c < 256,
      (readRow .TS ts r).getLsbD c = (encodeState (stateStep (decodeRow (basisRow c)))).getLsbD r

/-- 41_matrix_build.md R101 (marked there as derived): the ones of `TMAT`, row by row. -/
def Obligations.TransitionMatrixClosedForm : Prop :=
  ∀ k < 64, ∀ c < 256,
    entry tMat k c = (decide (c = k) || decide (c = 64 + k) || decide (c = 192 + k)) ∧
    entry tMat (64 + k) c = (decide (c = k) || decide (c = 64 + k) || decide (c = 128 + k)) ∧
    entry tMat (128 + k) c = (decide (c = k) || decide (c = 128 + k) || (decide (17 ≤ k) && decide (c = 64 + k - 17))) ∧
    entry tMat (192 + k) c = (decide (c = 64 + (k + 19) % 64) || decide (c = 192 + (k + 19) % 64))

/-- 41_matrix_build.md R111: `T` is StateStep on encoded states, as functions and as commands. -/
def Obligations.TransitionMatrixIsStateStep : Prop :=
  (∀ q : Words4, encodeState (stateStep q) = matVec tMat (encodeState q)) ∧
  (∀ s : State, Ready s → ∃ a b c d : State,
    exec .enc s = .next a ∧ exec .mvmulT a = .next b ∧ exec .step s = .next c ∧ exec .enc c = .next d ∧ b.V = d.V)

/-- 41_matrix_build.md R106, R107: BUILDK builds `T` first if it is not valid, fills store `KS` with the columns
`e0, T e0, T (T e0), ...`, sets `K_VALID`, and does nothing else. -/
def Obligations.BuildKFillsStoreWithKrylovColumns : Prop :=
  ∀ s : State, ∃ t : State, exec .buildK s = .next t ∧
    columnOf (readMatrix .KS t) 0 = basisRow 0 ∧
    (∀ c < 255, columnOf (readMatrix .KS t) (c + 1) = matVec (readMatrix .TS t) (columnOf (readMatrix .KS t) c)) ∧
    (s.T_VALID = true → ∃ ks, t = { s with mem := { s.mem with KS := ks }, K_VALID := true }) ∧
    (s.T_VALID = false → ∃ u ks, exec .buildT s = .next u ∧
      t = { u with mem := { u.mem with KS := ks }, K_VALID := true })

/-- 41_matrix_build.md R105 (marked there as derived): column `c` of `KMAT` is the state reached from `(1, 0, 0, 0)` by
`c` steps. -/
def Obligations.KrylovColumnsAreSteppedStates : Prop :=
  ∀ c < 256, decodeRow (columnOf kMat c) = stepTimes c ⟨1, 0, 0, 0⟩

/-- 41_matrix_build.md R113: the vectors `T^i e0` are linearly independent and span the whole space (the spec's author
computed it; the document relies on it). -/
def Obligations.KrylovVectorsFormBasis : Prop :=
  ∀ v : Row, ∃! a : Row,
    combineRows a 0 ((List.range 256).map (fun i => (matVec tMat)^[i] (basisRow 0))) = v

/-- 41_matrix_build.md R109: the three products, each building what it needs first; when the inversion raises, MVMUL.KI
leaves what INVK leaves, `V` unchanged. -/
def Obligations.MvmulMultipliesVByItsMatrix : Prop :=
  ∀ s : State,
    (s.T_VALID = true → ∃ v, exec .mvmulT s = .next { s with V := v } ∧
      ∀ r < 256, v.getLsbD r = xorUpTo 256 (fun c => (memRead .TS r s).getLsbD c && s.V.getLsbD c)) ∧
    (s.T_VALID = false → ∀ u, exec .buildT s = .next u →
      exec .mvmulT s = exec .mvmulT u ∧ exec .mvmulK s = exec .mvmulK u ∧ exec .mvmulKI s = exec .mvmulKI u) ∧
    (s.T_VALID = true → s.K_VALID = true → ∃ v, exec .mvmulK s = .next { s with V := v } ∧
      ∀ r < 256, v.getLsbD r = xorUpTo 256 (fun c => (memRead .KS r s).getLsbD c && s.V.getLsbD c)) ∧
    (s.K_VALID = false → ∀ u, exec .buildK s = .next u →
      exec .mvmulK s = exec .mvmulK u ∧ exec .mvmulKI s = exec .mvmulKI u) ∧
    (s.T_VALID = true → s.K_VALID = true → s.KI_VALID = true → ∃ v, exec .mvmulKI s = .next { s with V := v } ∧
      ∀ r < 256, v.getLsbD r = xorUpTo 256 (fun c => (memRead .KIS r s).getLsbD c && s.V.getLsbD c)) ∧
    (s.KI_VALID = false → ∀ u, exec .invK s = .next u →
      exec .mvmulKI s = (if u.KI_VALID then exec .mvmulKI u else .next u) ∧ u.V = s.V)

/-! ## Inversion -/

/-- 42_inversion.md R117, R118: INVK builds `K` first if it is not valid; it writes the inverse to store `KIS` or raises
Singular with the failing column, and touches nothing but the stated flags. -/
def Obligations.InvKWritesInverseOrRaisesSingular : Prop :=
  (∀ s : State, s.T_VALID = true → s.K_VALID = true →
    match gaussJordan (readMatrix .KS s) with
    | .ok x => ∃ kis : RowStore,
        exec .invK s = .next { s with
          mem := { s.mem with KIS := kis }, KI_VALID := true, VERIFIED := false, J_VALID := false } ∧
        ∀ r < 256, readRow .KIS kis r = rowOf x r
    | .fail c => ∃ kis : RowStore,
        exec .invK s = .next { s with
          mem := { s.mem with KIS := kis }, KI_VALID := false, VERIFIED := false, J_VALID := false,
          ERR_CODE := .singular, ERRINFO := BitVec.ofNat 64 c }) ∧
  (∀ s : State, s.K_VALID = false → ∀ u, exec .buildK s = .next u → exec .invK s = exec .invK u) ∧
  (∀ s : State, s.T_VALID = false → ∀ u, exec .buildT s = .next u → exec .invK s = exec .invK u)

/-- 60_exceptions.md R163: Singular ends INVK, VERIFY, INIT, MVMUL.KI and JUMPGEN alike, with the state it leaves. -/
def Obligations.SingularEndsEveryCommandThatInverts : Prop :=
  ∀ s u : State, s.KI_VALID = false → exec .invK s = .next u → u.KI_VALID = false →
    u.ERR_CODE = .singular ∧ u.ERRINFO.toNat < 256 ∧
    gaussJordan (readMatrix .KS u) = .fail u.ERRINFO.toNat ∧
    u.T_VALID = true ∧ u.K_VALID = true ∧ u.VERIFIED = false ∧ u.J_VALID = false ∧
    u.S = s.S ∧ u.V = s.V ∧ u.N = s.N ∧ u.J = s.J ∧ u.NEG = s.NEG ∧ u.MADDR = s.MADDR ∧
    exec .mvmulKI s = .next u ∧ exec .verify s = .next u ∧ exec .init s = .next u ∧
    (s.NEG = false → exec .jumpGen s = .next u)

/-- 42_inversion.md R115, R119 (the latter marked as derived): `GaussJordan` returns the two-sided inverse, or names a
column and no inverse exists. -/
def Obligations.GaussJordanInvertsOrProvesSingular : Prop :=
  ∀ A : Matrix, A.length = 256 →
    match gaussJordan A with
    | .ok X => X.length = 256 ∧ matMul A X = identity ∧ matMul X A = identity
    | .fail c => c < 256 ∧ ∀ X : Matrix, X.length = 256 → matMul A X ≠ identity ∧ matMul X A ≠ identity

/-- 42_inversion.md R120: from every ready state INVK succeeds, the stores then hold inverse matrices, and MVMUL.K and
MVMUL.KI undo each other. That no fault is recorded rests on the author's computation (R118, R113). -/
def Obligations.InvKLeavesInverseStores : Prop :=
  ∀ s : State, Ready s →
    (∃ t, exec .invK s = .next t ∧ t.ERR_CODE = .none ∧ t.KI_VALID = true ∧
      matMul (readMatrix .KS t) (readMatrix .KIS t) = identity ∧
      matMul (readMatrix .KIS t) (readMatrix .KS t) = identity ∧
      matVec (readMatrix .KIS t) (basisRow 0) = basisRow 0) ∧
    (∃ a b, exec .mvmulK s = .next a ∧ exec .mvmulKI a = .next b ∧ b.V = s.V) ∧
    (∃ a b, exec .mvmulKI s = .next a ∧ exec .mvmulK a = .next b ∧ b.V = s.V)

/-! ## Jump constants -/

/-- 43_jump.md R125, R126 (the latter marked as derived): square and multiply computes `M^n e0`. -/
def Obligations.PowVecIsRepeatedProduct : Prop :=
  ∀ (M : Matrix) (n : Row), M.length = 256 → powVec M n = (matVec M)^[n.toNat] (basisRow 0)

/-- 43_jump.md R127: the coefficients re-express `M^n e0` in the Krylov basis, for any `M` whose Krylov matrix `KI`
inverts. -/
def Obligations.JumpCoefficientsReproduceTheJump : Prop :=
  ∀ (M KI : Matrix) (n : Row), M.length = 256 → KI.length = 256 → matMul (krylovMatrix M) KI = identity →
    combineRows (encodeState (jumpConstant M KI n)) 0
        ((List.range 256).map (fun b => (matVec M)^[b] (basisRow 0)))
      = (matVec M)^[n.toNat] (basisRow 0)

/-- 43_jump.md R129, R138 and R130 (the last marked as derived): for `N` up to 255 the constant has the single bit `N`;
for `N = 0` it is `(1, 0, 0, 0)`. -/
def Obligations.SmallJumpConstantsAreSingleBits : Prop :=
  ∀ s : State, Ready s → s.NEG = false → s.N.toNat ≤ 255 →
    ∃ t, exec .jumpGen s = .next t ∧ t.ERR_CODE = .none ∧ t.J_VALID = true ∧
      encodeState t.J = basisRow s.N.toNat ∧ (s.N = 0 → t.J = ⟨1, 0, 0, 0⟩)

/-- 43_jump.md R134: the generator reproduces the two reference constants. -/
def Obligations.KnownAnswersAreReproduced : Prop :=
  ∀ s : State, Ready s → s.NEG = false →
    (s.N.toNat = 2 ^ 128 → ∃ t, exec .jumpGen s = .next t ∧ t.J_VALID = true ∧
      t.J = ⟨0x180ec6d33cfd0aba#64, 0xd5a61266f0c9392c#64, 0xa9582618e03fc9aa#64, 0x39abdc4529b1661c#64⟩) ∧
    (s.N.toNat = 2 ^ 192 → ∃ t, exec .jumpGen s = .next t ∧ t.J_VALID = true ∧
      t.J = ⟨0x76e15d3efefdcbbf#64, 0xc5004e441c522fb3#64, 0x77710069854ee241#64, 0x39109bb02acbe635#64⟩)

/-- 43_jump.md R140 (marked there as derived): a constant the core derives for `N`, applied to any state, is `N` steps. -/
def Obligations.DerivedConstantJumpsNSteps : Prop :=
  ∀ s : State, Ready s → s.NEG = false →
    ∃ t, exec .jumpGen s = .next t ∧ t.ERR_CODE = .none ∧ t.VERIFIED = true ∧ t.J_VALID = true ∧
      (∀ q : Words4, jumpApply t.J q = stepTimes s.N.toNat q) ∧
      ∃ u, exec .jApply t = .next u ∧ u.S = stepTimes s.N.toNat s.S

/-- 43_jump.md R142: two successive jumps are one jump by the sum. -/
def Obligations.JumpsCompose : Prop :=
  ∀ a b c : State, Ready a → Ready b → Ready c → a.NEG = false → b.NEG = false → c.NEG = false →
    a.N.toNat + b.N.toNat = c.N.toNat →
    ∃ a' b' c', exec .jumpGen a = .next a' ∧ exec .jumpGen b = .next b' ∧ exec .jumpGen c = .next c' ∧
      ∀ q : Words4, jumpApply b'.J (jumpApply a'.J q) = jumpApply c'.J q

/-- 43_jump.md R131, R132, 60_exceptions.md R167: JUMPGEN rejects a negative count before any matrix work, runs what
INIT runs, and only when the core is then verified writes `J` and `J_VALID`; otherwise `J` is kept and `J_VALID` is 0. -/
def Obligations.JumpGenRejectsInitialisesAndEmits : Prop :=
  ∀ s : State,
    (s.NEG = true →
      exec .jumpGen s = .next { s with J_VALID := false, ERR_CODE := .invalidInput, ERRINFO := 0 }) ∧
    (s.NEG = false → s.T_VALID = true → s.K_VALID = true → s.KI_VALID = true → s.VERIFIED = true →
      exec .jumpGen s = .next { s with
        J := decodeRow (matVec (readMatrix .KIS s) (powVec (readMatrix .TS s) s.N)), J_VALID := true }) ∧
    (s.NEG = false → ∀ u, exec .init s = .next u →
      u.J = s.J ∧ u.N = s.N ∧ u.V = s.V ∧ u.S = s.S ∧
      exec .jumpGen s = (if u.VERIFIED then exec .jumpGen u else .next { u with J_VALID := false }))

/-- 43_jump.md R135, R136: VERIFY inverts first if it must, checks the constant for 2^128 first, and records which one
disagreed; a passing check leaves `J` and `J_VALID` as they were. -/
def Obligations.VerifyChecksBothConstantsInOrder : Prop :=
  ∀ s : State,
    (s.T_VALID = true → s.K_VALID = true → s.KI_VALID = true →
      exec .verify s = .next (
        if jumpConstant (readMatrix .TS s) (readMatrix .KIS s) (BitVec.ofNat 256 (2 ^ 128)) ≠ Config.ref128 then
          { s with VERIFIED := false, J_VALID := false, ERR_CODE := .verifyMismatch, ERRINFO := 0 }
        else if jumpConstant (readMatrix .TS s) (readMatrix .KIS s) (BitVec.ofNat 256 (2 ^ 192)) ≠ Config.ref192 then
          { s with VERIFIED := false, J_VALID := false, ERR_CODE := .verifyMismatch, ERRINFO := 1 }
        else { s with VERIFIED := true })) ∧
    (s.KI_VALID = false → ∀ u, exec .invK s = .next u →
      exec .verify s = if u.KI_VALID then exec .verify u else .next u) ∧
    (s.K_VALID = false → ∀ u, exec .buildK s = .next u → exec .verify s = exec .verify u) ∧
    (s.T_VALID = false → ∀ u, exec .buildT s = .next u → exec .verify s = exec .verify u)

/-- 60_exceptions.md R166: where a constant differs from its reference, VERIFY, INIT and JUMPGEN end alike in
VerifyMismatch, with the state it leaves. -/
def Obligations.MismatchEndsEveryCommandThatVerifies : Prop :=
  ∀ s : State, s.T_VALID = true → s.K_VALID = true → s.KI_VALID = true → s.VERIFIED = false →
    (storedJump s (basisRow 128) ≠ Config.ref128 ∨ storedJump s (basisRow 192) ≠ Config.ref192) →
    ∃ u, exec .verify s = .next u ∧ exec .init s = .next u ∧ (s.NEG = false → exec .jumpGen s = .next u) ∧
      u.ERR_CODE = .verifyMismatch ∧
      u.ERRINFO = (if storedJump s (basisRow 128) ≠ Config.ref128 then 0 else 1) ∧
      u.T_VALID = true ∧ u.K_VALID = true ∧ u.KI_VALID = true ∧ u.VERIFIED = false ∧ u.J_VALID = false ∧
      u.J = s.J ∧ u.S = s.S ∧ u.V = s.V ∧ u.mem = s.mem

/-- 43_jump.md R137, 41_matrix_build.md R108: INIT runs only the stages whose flags are 0, in their order; a second INIT
does nothing. -/
def Obligations.InitRunsOnlyMissingStages : Prop :=
  ∀ s : State,
    (s.T_VALID = true → s.K_VALID = true → s.KI_VALID = true → s.VERIFIED = true → exec .init s = .next s) ∧
    (s.T_VALID = true → s.K_VALID = true → s.KI_VALID = true → s.VERIFIED = false →
      exec .init s = exec .verify s) ∧
    (s.KI_VALID = false → ∀ u, exec .invK s = .next u →
      exec .init s = if u.KI_VALID then exec .verify u else .next u) ∧
    (s.K_VALID = false → ∀ u, exec .buildK s = .next u → exec .init s = exec .init u) ∧
    (s.T_VALID = false → ∀ u, exec .buildT s = .next u → exec .init s = exec .init u)

/-- 43_jump.md R136, R137, 70_reset_and_hazards.md R185: from every ready state INIT and VERIFY succeed. That the check
passes rests on the author's computation (R134). -/
def Obligations.InitAndVerifySucceed : Prop :=
  ∀ s : State, Ready s →
    (∃ t, exec .init s = .next t ∧ t.ERR_CODE = .none ∧ t.T_VALID = true ∧ t.K_VALID = true ∧ t.KI_VALID = true ∧
      t.VERIFIED = true ∧ t.J = s.J ∧ exec .init t = .next t) ∧
    (∃ t, exec .verify s = .next t ∧ t.ERR_CODE = .none ∧ t.T_VALID = true ∧ t.K_VALID = true ∧ t.KI_VALID = true ∧
      t.VERIFIED = true ∧ t.J = s.J)

/-- 43_jump.md R139, R141: JAPPLY writes `S` with the XOR, over the coefficients of `J` that are 1, of `S` stepped that
many times, and nothing else; with the corner cases of R141. -/
def Obligations.JApplyEvaluatesThePolynomial : Prop :=
  ∀ s : State, ∃ q, exec .jApply s = .next { s with S := q } ∧
    encodeState q = combineRows (encodeState s.J) 0 ((List.range 256).map (fun b => encodeState (stepTimes b s.S))) ∧
    (s.J = ⟨0, 0, 0, 0⟩ → q = ⟨0, 0, 0, 0⟩) ∧
    (s.J = ⟨1, 0, 0, 0⟩ → q = s.S) ∧
    (s.J = ⟨2, 0, 0, 0⟩ → q = stateStep s.S) ∧
    (s.S = ⟨0, 0, 0, 0⟩ → q = ⟨0, 0, 0, 0⟩)

/-! ## System commands and faults -/

/-- 44_system.md R150. -/
def Obligations.NopChangesNothing : Prop := ∀ s : State, exec .nop s = .next s

/-- 44_system.md R151: CLRERR, as a rule and as the word written to `CMD` in any state. -/
def Obligations.ClrErrClearsOnlyNonFatalFaults : Prop :=
  ∀ s : State,
    exec .clrErr s =
      (match s.ERR_CODE with
        | .invalidInput => .next { s with ERR_CODE := .none, ERRINFO := 0 }
        | .illegalCommand => .next { s with ERR_CODE := .none, ERRINFO := 0 }
        | .none => .next s
        | .singular => .next s
        | .verifyMismatch => .next s) ∧
    portWrite 0x00#8 0x3F#64 s = exec .clrErr s

/-- 60_exceptions.md R164: an illegal word is recorded with the word, nothing else changes, and CLRERR clears it. -/
def Obligations.IllegalWordIsRecordedAndCleared : Prop :=
  ∀ (s : State) (d : Word), s.ERR_CODE = .none → (∀ i, d.extractLsb' 0 32 ≠ Sys2Proof.Spec.tableWord i) →
    ∃ t, portWrite 0x00#8 d s = .next t ∧
      t = { s with ERR_CODE := .illegalCommand, ERRINFO := (d.extractLsb' 0 32).setWidth 64 } ∧
      portWrite 0x00#8 0x3F#64 t = .next { s with ERRINFO := 0 }

/-- 60_exceptions.md R165: while a fault is recorded every `CMD` write but a clearing CLRERR changes nothing, and every
other register is read and written as if none were recorded. -/
def Obligations.RecordedFaultDropsCommandsOnly : Prop :=
  ∀ (s : State) (d : Word), s.ERR_CODE ≠ .none →
    (¬ (d.extractLsb' 0 32 = 0x0000003F#32 ∧ (s.ERR_CODE = .invalidInput ∨ s.ERR_CODE = .illegalCommand)) →
      portWrite 0x00#8 d s = .next s) ∧
    (∀ idx : PortIndex, idx ≠ 0x00#8 → idx ≠ 0x04#8 → ∃ t, portWrite idx d s = .next t ∧
      t.ERR_CODE = s.ERR_CODE ∧ t.ERRINFO = s.ERRINFO ∧
      portWrite idx d { s with ERR_CODE := .none, ERRINFO := 0 } = .next { t with ERR_CODE := .none, ERRINFO := 0 }) ∧
    (∀ idx : PortIndex, idx ≠ 0x01#8 → idx ≠ 0x02#8 → idx ≠ 0x03#8 →
      portRead idx { s with ERR_CODE := .none, ERRINFO := 0 } = portRead idx s)

/-- 60_exceptions.md R160: which command can record which fault, and with what information. -/
def Obligations.FaultsComeOnlyFromTheirCauses : Prop :=
  ∀ (i : Instr) (s : State), i ≠ .clrErr → ∃ t, exec i s = .next t ∧
    ((t.ERR_CODE = s.ERR_CODE ∧ t.ERRINFO = s.ERRINFO) ∨
     (i = .jumpGen ∧ s.NEG = true ∧ t.ERR_CODE = .invalidInput ∧ t.ERRINFO = 0) ∨
     (i ∈ [Instr.invK, .verify, .init, .mvmulKI, .jumpGen] ∧ t.ERR_CODE = .singular ∧ t.ERRINFO.toNat < 256) ∨
     (i ∈ [Instr.verify, .init, .jumpGen] ∧ t.ERR_CODE = .verifyMismatch ∧ (t.ERRINFO = 0 ∨ t.ERRINFO = 1)))

/-- 60_exceptions.md R172, R165: a fatal fault stays, with its information, the stores and the flags, until an event
resets the core; and no command runs: a write to `CMD`, on the port or through a wrapper, leaves everything but the
position of the script. -/
def Obligations.FatalFaultHoldsUntilReset : Prop :=
  ∀ (s t : State) (e : HostEvent), isFatal s.ERR_CODE = true → s.script[s.pc]? = some e → resetsCore e = false →
    step s = .next t →
    (t.ERR_CODE = s.ERR_CODE ∧ t.ERRINFO = s.ERRINFO ∧ t.mem = s.mem ∧ t.T_VALID = s.T_VALID ∧
      t.K_VALID = s.K_VALID ∧ t.KI_VALID = s.KI_VALID ∧ t.VERIFIED = s.VERIFIED ∧
      (t.J_VALID = true → s.J_VALID = true)) ∧
    (∀ d : Word, e = .portWrite 0x00#8 d → t = { s with pc := s.pc + 1 }) ∧
    (∀ (offset : Nat) (bytes : List Byte), e = .busWrite offset bytes → busIndex offset = 0x00#8 →
      t = { s with pc := s.pc + 1 })

/-! ## Frames -/

/-- 10_state.md R25: which command reads and which writes each data register. A command that does neither runs the same
whatever the register holds, and leaves it. -/
def Obligations.CommandsTouchOnlyTheirRegisters : Prop :=
  ∀ (i : Instr) (s : State), ∃ t, exec i s = .next t ∧
    (i ∉ [Instr.step, .enc, .dec, .jApply] → ∀ q, exec i { s with S := q } = .next { t with S := q }) ∧
    (i = .enc → t.S = s.S) ∧
    (i = .dec → ∀ q, exec i { s with S := q } = .next t) ∧
    (i ∉ [Instr.enc, .dec, .mvmulT, .mvmulK, .mvmulKI] → ∀ v, exec i { s with V := v } = .next { t with V := v }) ∧
    (i = .dec → t.V = s.V) ∧
    (i = .enc → ∀ v, exec i { s with V := v } = .next t) ∧
    (i ≠ .jumpGen → ∀ n b, exec i { s with N := n, NEG := b } = .next { t with N := n, NEG := b }) ∧
    (t.N = s.N ∧ t.NEG = s.NEG ∧ t.MADDR = s.MADDR) ∧
    (i ∉ [Instr.jumpGen, .jApply] → ∀ j, exec i { s with J := j } = .next { t with J := j }) ∧
    (i = .jApply → t.J = s.J) ∧
    (i = .jumpGen → (t.J_VALID = true → ∀ j, exec i { s with J := j } = .next t) ∧
      (t.J_VALID = false → t.J = s.J ∧ ∀ j, exec i { s with J := j } = .next { t with J := j }))

/-- 10_state.md R28: what sets and clears each of the six flags, by command and by host access. The flags a stage sets at
its successful end are told by what it found: DoInvK by whether GaussJordan of store `KS` succeeds, DoVerify by whether
the two constants from the stores are the reference constants. -/
def Obligations.FlagsChangeOnlyByTheirStages : Prop :=
  (∀ (i : Instr) (s : State), ∃ t, exec i s = .next t ∧
    t.NEG = s.NEG ∧
    (i ∈ [Instr.nop, .step, .enc, .dec, .jApply, .clrErr] → flagsOf t = flagsOf s) ∧
    (i = .jumpGen → s.NEG = true → flagsOf t = { flagsOf s with J_VALID := false }) ∧
    -- `T_VALID` and `K_VALID`: set by their stages, cleared by no command
    (i ∉ [Instr.nop, .step, .enc, .dec, .jApply, .clrErr] → ¬ (i = .jumpGen ∧ s.NEG = true) → t.T_VALID = true) ∧
    (i ∈ [Instr.buildT, .mvmulT] → t.K_VALID = s.K_VALID) ∧
    (i ∈ [Instr.buildK, .mvmulK, .invK, .verify, .init, .mvmulKI] ∨ (i = .jumpGen ∧ s.NEG = false) →
      t.K_VALID = true) ∧
    (s.T_VALID = true → t.T_VALID = true) ∧ (s.K_VALID = true → t.K_VALID = true) ∧
    (i ∈ [Instr.buildT, .mvmulT, .buildK, .mvmulK] →
      t.KI_VALID = s.KI_VALID ∧ t.VERIFIED = s.VERIFIED ∧ t.J_VALID = s.J_VALID) ∧
    -- `KI_VALID`: set and cleared by DoInvK
    (i = .invK → (t.KI_VALID = true ↔ ∃ x, gaussJordan (readMatrix .KS t) = .ok x)) ∧
    (i ∈ [Instr.verify, .init, .mvmulKI] ∨ (i = .jumpGen ∧ s.NEG = false) →
      (t.KI_VALID = true ↔ s.KI_VALID = true ∨ ∃ x, gaussJordan (readMatrix .KS t) = .ok x)) ∧
    -- `VERIFIED`: set and cleared by DoVerify, cleared by DoInvK
    (i = .invK ∨ (i = .mvmulKI ∧ s.KI_VALID = false) → t.VERIFIED = false ∧ t.J_VALID = false) ∧
    (i = .mvmulKI ∧ s.KI_VALID = true → t.KI_VALID = true ∧ t.VERIFIED = s.VERIFIED ∧ t.J_VALID = s.J_VALID) ∧
    (i = .verify → (t.VERIFIED = true ↔ t.KI_VALID = true ∧
      storedJump t (basisRow 128) = Config.ref128 ∧ storedJump t (basisRow 192) = Config.ref192)) ∧
    (i = .init ∨ (i = .jumpGen ∧ s.NEG = false) →
      (t.VERIFIED = true ↔ (s.KI_VALID = true ∧ s.VERIFIED = true) ∨ (t.KI_VALID = true ∧
        storedJump t (basisRow 128) = Config.ref128 ∧ storedJump t (basisRow 192) = Config.ref192))) ∧
    -- `J_VALID`: set by a JUMPGEN that succeeds; cleared by one that fails, by DoInvK and by a mismatch
    (i ≠ .jumpGen → t.J_VALID = true → s.J_VALID = true) ∧
    (i = .jumpGen → (t.J_VALID = true ↔ s.NEG = false ∧ t.VERIFIED = true)) ∧
    (i = .jumpGen → t.J_VALID = true → t.ERR_CODE = s.ERR_CODE) ∧
    (i ∈ [Instr.verify, .init] → t.J_VALID = (s.J_VALID && s.KI_VALID && t.VERIFIED))) ∧
  -- a dropped or illegal word, a read and a write to any other register
  (∀ (s t : State) (d : Word), s.ERR_CODE ≠ .none ∨ (∀ i, d.extractLsb' 0 32 ≠ Sys2Proof.Spec.tableWord i) →
    portWrite 0x00#8 d s = .next t → flagsOf t = flagsOf s) ∧
  (∀ (s t : State) (idx : PortIndex), perform (.portRead idx) s = .next t → flagsOf t = flagsOf s) ∧
  (∀ (s t : State) (idx : PortIndex) (d : Word), idx ≠ 0x00#8 → idx ≠ 0x04#8 → portWrite idx d s = .next t →
    flagsOf t = { flagsOf s with
      J_VALID := if 0x14 ≤ idx.toNat ∧ idx.toNat ≤ 0x17 then false else s.J_VALID
      NEG := if idx = 0x05#8 then d.getLsbD 0 else s.NEG }) ∧
  -- reset
  (∀ s t : State, perform .rstN s = .next t → flagsOf t = ⟨false, false, false, false, false, false⟩) ∧
  (∀ (s t : State) (d : Word), portWrite 0x04#8 d s = .next t →
    flagsOf t = if d.getLsbD 0 then ⟨false, false, false, false, false, false⟩ else flagsOf s)

/-- 10_state.md R36: the stores are written only by the build stages, each by its own, and never by a host access but a
command or a reset. Every row of a store a command does not write reads as before. -/
def Obligations.StoresAreWrittenOnlyByBuildStages : Prop :=
  (∀ (i : Instr) (s : State), ∃ t, exec i s = .next t ∧
    (i ∈ [Instr.nop, .step, .enc, .dec, .jApply, .clrErr] → ∀ m r, memRead m r t = memRead m r s) ∧
    (i ∈ [Instr.buildT, .mvmulT] → ∀ m r, m ≠ .TS → memRead m r t = memRead m r s) ∧
    (i ∈ [Instr.buildK, .mvmulK] → ∀ r, memRead .KIS r t = memRead .KIS r s) ∧
    (i ≠ .buildT → s.T_VALID = true → ∀ r, memRead .TS r t = memRead .TS r s) ∧
    (i ≠ .buildK → s.T_VALID = true → s.K_VALID = true → ∀ r, memRead .KS r t = memRead .KS r s) ∧
    (i ≠ .invK → s.T_VALID = true → s.K_VALID = true → s.KI_VALID = true →
      ∀ r, memRead .KIS r t = memRead .KIS r s)) ∧
  (∀ (s t : State) (idx : PortIndex) (d : Word), idx ≠ 0x00#8 → idx ≠ 0x04#8 → portWrite idx d s = .next t →
    ∀ m r, memRead m r t = memRead m r s) ∧
  (∀ (s t : State) (idx : PortIndex), perform (.portRead idx) s = .next t → ∀ m r, memRead m r t = memRead m r s)

/-! ## Whole-machine rules -/

/-- The invariant of Safety.lean holds in the state after reset, and in every state a reset leaves. -/
def Obligations.InvHoldsAfterReset : Prop := Inv State.reset ∧ ∀ s : State, Inv (resetCore s)

/-- 10_state.md R43 (marked there as derived), as an invariant of its own: every step keeps the flag chain, so
`STATUS[4:0]` reads one of six values. -/
def Obligations.StepKeepsFlagChain : Prop :=
  (∀ s t : State, FlagChain s → step s = .next t → FlagChain t) ∧
  (∀ s : State, FlagChain s → (statusWord s).toNat % 32 ∈ [0x00, 0x01, 0x03, 0x07, 0x0F, 0x1F])

/-- 10_state.md R40, R43 (marked there as derived), R33, R27: every step keeps the invariant: the canonical form of the
memory, the flag chain, what a valid store holds, what a recorded fault's information means, and what `VERIFIED` and
`J_VALID` promise. -/
def Obligations.StepKeepsInv : Prop := ∀ s t : State, Inv s → step s = .next t → Inv t

/-- 42_inversion.md R118, 43_jump.md R136: no event of any host script records Singular or VerifyMismatch, from any state
that meets the invariant. It rests on the author's computation (R113, R134). -/
def Obligations.NoFatalFaultIsEverRecorded : Prop :=
  ∀ s t : State, Inv s → NoFatal s → step s = .next t → NoFatal t

/-- 10_state.md R40 (marked there as derived): the content of a store whose valid flag is 0 cannot be observed. Two
states that differ in nothing else step alike, and read alike. -/
def Obligations.InvalidStoreContentIsUnobservable : Prop :=
  ∀ s t : State, SameObservable s t →
    (∀ idx, portRead idx s = portRead idx t) ∧
    (∀ s', step s = .next s' → ∃ t', step t = .next t' ∧ SameObservable s' t') ∧
    (∀ f, step s = .fault f → step t = .fault f) ∧
    (∀ r, step s = .refused r → step t = .refused r)
end

