-- ==== Sys2Proof/Laws/State.lean ====
section
/-! SUPPORT. One lemma per field per named update of State, so that no later proof unfolds a record update; and the
same for the stores of the memory. -/
namespace Sys2Proof.Machine

/-! ## raise -/

@[simp] theorem raise_S (f : ErrCode) (i : Word) (s : State) : (raise f i s).S = s.S := rfl
@[simp] theorem raise_V (f : ErrCode) (i : Word) (s : State) : (raise f i s).V = s.V := rfl
@[simp] theorem raise_N (f : ErrCode) (i : Word) (s : State) : (raise f i s).N = s.N := rfl
@[simp] theorem raise_J (f : ErrCode) (i : Word) (s : State) : (raise f i s).J = s.J := rfl
@[simp] theorem raise_NEG (f : ErrCode) (i : Word) (s : State) : (raise f i s).NEG = s.NEG := rfl
@[simp] theorem raise_T_VALID (f : ErrCode) (i : Word) (s : State) : (raise f i s).T_VALID = s.T_VALID := rfl
@[simp] theorem raise_K_VALID (f : ErrCode) (i : Word) (s : State) : (raise f i s).K_VALID = s.K_VALID := rfl
@[simp] theorem raise_KI_VALID (f : ErrCode) (i : Word) (s : State) : (raise f i s).KI_VALID = s.KI_VALID := rfl
@[simp] theorem raise_VERIFIED (f : ErrCode) (i : Word) (s : State) : (raise f i s).VERIFIED = s.VERIFIED := rfl
@[simp] theorem raise_J_VALID (f : ErrCode) (i : Word) (s : State) : (raise f i s).J_VALID = s.J_VALID := rfl
@[simp] theorem raise_ERR_CODE (f : ErrCode) (i : Word) (s : State) : (raise f i s).ERR_CODE = f := rfl
@[simp] theorem raise_ERRINFO (f : ErrCode) (i : Word) (s : State) : (raise f i s).ERRINFO = i := rfl
@[simp] theorem raise_MADDR (f : ErrCode) (i : Word) (s : State) : (raise f i s).MADDR = s.MADDR := rfl
@[simp] theorem raise_mem (f : ErrCode) (i : Word) (s : State) : (raise f i s).mem = s.mem := rfl
@[simp] theorem raise_script (f : ErrCode) (i : Word) (s : State) : (raise f i s).script = s.script := rfl
@[simp] theorem raise_pc (f : ErrCode) (i : Word) (s : State) : (raise f i s).pc = s.pc := rfl
@[simp] theorem raise_obs (f : ErrCode) (i : Word) (s : State) : (raise f i s).obs = s.obs := rfl

/-! ## memWrite -/

@[simp] theorem memWrite_S (m : StoreId) (r : Nat) (v : Row) (s : State) : (memWrite m r v s).S = s.S := rfl
@[simp] theorem memWrite_V (m : StoreId) (r : Nat) (v : Row) (s : State) : (memWrite m r v s).V = s.V := rfl
@[simp] theorem memWrite_N (m : StoreId) (r : Nat) (v : Row) (s : State) : (memWrite m r v s).N = s.N := rfl
@[simp] theorem memWrite_J (m : StoreId) (r : Nat) (v : Row) (s : State) : (memWrite m r v s).J = s.J := rfl
@[simp] theorem memWrite_NEG (m : StoreId) (r : Nat) (v : Row) (s : State) : (memWrite m r v s).NEG = s.NEG := rfl
@[simp] theorem memWrite_T_VALID (m : StoreId) (r : Nat) (v : Row) (s : State) : (memWrite m r v s).T_VALID = s.T_VALID := rfl
@[simp] theorem memWrite_K_VALID (m : StoreId) (r : Nat) (v : Row) (s : State) : (memWrite m r v s).K_VALID = s.K_VALID := rfl
@[simp] theorem memWrite_KI_VALID (m : StoreId) (r : Nat) (v : Row) (s : State) : (memWrite m r v s).KI_VALID = s.KI_VALID := rfl
@[simp] theorem memWrite_VERIFIED (m : StoreId) (r : Nat) (v : Row) (s : State) : (memWrite m r v s).VERIFIED = s.VERIFIED := rfl
@[simp] theorem memWrite_J_VALID (m : StoreId) (r : Nat) (v : Row) (s : State) : (memWrite m r v s).J_VALID = s.J_VALID := rfl
@[simp] theorem memWrite_ERR_CODE (m : StoreId) (r : Nat) (v : Row) (s : State) : (memWrite m r v s).ERR_CODE = s.ERR_CODE := rfl
@[simp] theorem memWrite_ERRINFO (m : StoreId) (r : Nat) (v : Row) (s : State) : (memWrite m r v s).ERRINFO = s.ERRINFO := rfl
@[simp] theorem memWrite_MADDR (m : StoreId) (r : Nat) (v : Row) (s : State) : (memWrite m r v s).MADDR = s.MADDR := rfl
@[simp] theorem memWrite_mem (m : StoreId) (r : Nat) (v : Row) (s : State) : (memWrite m r v s).mem = withStore s.mem m (writeRow (storeOf s.mem m) r v) := rfl
@[simp] theorem memWrite_script (m : StoreId) (r : Nat) (v : Row) (s : State) : (memWrite m r v s).script = s.script := rfl
@[simp] theorem memWrite_pc (m : StoreId) (r : Nat) (v : Row) (s : State) : (memWrite m r v s).pc = s.pc := rfl
@[simp] theorem memWrite_obs (m : StoreId) (r : Nat) (v : Row) (s : State) : (memWrite m r v s).obs = s.obs := rfl

/-! ## loseKIS -/

@[simp] theorem loseKIS_S (s : State) : (loseKIS s).S = s.S := rfl
@[simp] theorem loseKIS_V (s : State) : (loseKIS s).V = s.V := rfl
@[simp] theorem loseKIS_N (s : State) : (loseKIS s).N = s.N := rfl
@[simp] theorem loseKIS_J (s : State) : (loseKIS s).J = s.J := rfl
@[simp] theorem loseKIS_NEG (s : State) : (loseKIS s).NEG = s.NEG := rfl
@[simp] theorem loseKIS_T_VALID (s : State) : (loseKIS s).T_VALID = s.T_VALID := rfl
@[simp] theorem loseKIS_K_VALID (s : State) : (loseKIS s).K_VALID = s.K_VALID := rfl
@[simp] theorem loseKIS_KI_VALID (s : State) : (loseKIS s).KI_VALID = s.KI_VALID := rfl
@[simp] theorem loseKIS_VERIFIED (s : State) : (loseKIS s).VERIFIED = s.VERIFIED := rfl
@[simp] theorem loseKIS_J_VALID (s : State) : (loseKIS s).J_VALID = s.J_VALID := rfl
@[simp] theorem loseKIS_ERR_CODE (s : State) : (loseKIS s).ERR_CODE = s.ERR_CODE := rfl
@[simp] theorem loseKIS_ERRINFO (s : State) : (loseKIS s).ERRINFO = s.ERRINFO := rfl
@[simp] theorem loseKIS_MADDR (s : State) : (loseKIS s).MADDR = s.MADDR := rfl
@[simp] theorem loseKIS_mem (s : State) : (loseKIS s).mem = withStore s.mem .KIS (loseRows s.mem.KIS) := rfl
@[simp] theorem loseKIS_script (s : State) : (loseKIS s).script = s.script := rfl
@[simp] theorem loseKIS_pc (s : State) : (loseKIS s).pc = s.pc := rfl
@[simp] theorem loseKIS_obs (s : State) : (loseKIS s).obs = s.obs := rfl

/-! ## multiplyV -/

@[simp] theorem multiplyV_S (m : StoreId) (s : State) : (multiplyV m s).S = s.S := rfl
@[simp] theorem multiplyV_V (m : StoreId) (s : State) : (multiplyV m s).V = matVec (readMatrix m s) s.V := rfl
@[simp] theorem multiplyV_N (m : StoreId) (s : State) : (multiplyV m s).N = s.N := rfl
@[simp] theorem multiplyV_J (m : StoreId) (s : State) : (multiplyV m s).J = s.J := rfl
@[simp] theorem multiplyV_NEG (m : StoreId) (s : State) : (multiplyV m s).NEG = s.NEG := rfl
@[simp] theorem multiplyV_T_VALID (m : StoreId) (s : State) : (multiplyV m s).T_VALID = s.T_VALID := rfl
@[simp] theorem multiplyV_K_VALID (m : StoreId) (s : State) : (multiplyV m s).K_VALID = s.K_VALID := rfl
@[simp] theorem multiplyV_KI_VALID (m : StoreId) (s : State) : (multiplyV m s).KI_VALID = s.KI_VALID := rfl
@[simp] theorem multiplyV_VERIFIED (m : StoreId) (s : State) : (multiplyV m s).VERIFIED = s.VERIFIED := rfl
@[simp] theorem multiplyV_J_VALID (m : StoreId) (s : State) : (multiplyV m s).J_VALID = s.J_VALID := rfl
@[simp] theorem multiplyV_ERR_CODE (m : StoreId) (s : State) : (multiplyV m s).ERR_CODE = s.ERR_CODE := rfl
@[simp] theorem multiplyV_ERRINFO (m : StoreId) (s : State) : (multiplyV m s).ERRINFO = s.ERRINFO := rfl
@[simp] theorem multiplyV_MADDR (m : StoreId) (s : State) : (multiplyV m s).MADDR = s.MADDR := rfl
@[simp] theorem multiplyV_mem (m : StoreId) (s : State) : (multiplyV m s).mem = s.mem := rfl
@[simp] theorem multiplyV_script (m : StoreId) (s : State) : (multiplyV m s).script = s.script := rfl
@[simp] theorem multiplyV_pc (m : StoreId) (s : State) : (multiplyV m s).pc = s.pc := rfl
@[simp] theorem multiplyV_obs (m : StoreId) (s : State) : (multiplyV m s).obs = s.obs := rfl

/-! ## emitJump -/

@[simp] theorem emitJump_S (s : State) : (emitJump s).S = s.S := rfl
@[simp] theorem emitJump_V (s : State) : (emitJump s).V = s.V := rfl
@[simp] theorem emitJump_N (s : State) : (emitJump s).N = s.N := rfl
@[simp] theorem emitJump_J (s : State) : (emitJump s).J = jumpConstant (readMatrix .TS s) (readMatrix .KIS s) s.N := rfl
@[simp] theorem emitJump_NEG (s : State) : (emitJump s).NEG = s.NEG := rfl
@[simp] theorem emitJump_T_VALID (s : State) : (emitJump s).T_VALID = s.T_VALID := rfl
@[simp] theorem emitJump_K_VALID (s : State) : (emitJump s).K_VALID = s.K_VALID := rfl
@[simp] theorem emitJump_KI_VALID (s : State) : (emitJump s).KI_VALID = s.KI_VALID := rfl
@[simp] theorem emitJump_VERIFIED (s : State) : (emitJump s).VERIFIED = s.VERIFIED := rfl
@[simp] theorem emitJump_J_VALID (s : State) : (emitJump s).J_VALID = true := rfl
@[simp] theorem emitJump_ERR_CODE (s : State) : (emitJump s).ERR_CODE = s.ERR_CODE := rfl
@[simp] theorem emitJump_ERRINFO (s : State) : (emitJump s).ERRINFO = s.ERRINFO := rfl
@[simp] theorem emitJump_MADDR (s : State) : (emitJump s).MADDR = s.MADDR := rfl
@[simp] theorem emitJump_mem (s : State) : (emitJump s).mem = s.mem := rfl
@[simp] theorem emitJump_script (s : State) : (emitJump s).script = s.script := rfl
@[simp] theorem emitJump_pc (s : State) : (emitJump s).pc = s.pc := rfl
@[simp] theorem emitJump_obs (s : State) : (emitJump s).obs = s.obs := rfl

/-! ## observe -/

@[simp] theorem observe_S (o : Observed) (s : State) : (observe o s).S = s.S := rfl
@[simp] theorem observe_V (o : Observed) (s : State) : (observe o s).V = s.V := rfl
@[simp] theorem observe_N (o : Observed) (s : State) : (observe o s).N = s.N := rfl
@[simp] theorem observe_J (o : Observed) (s : State) : (observe o s).J = s.J := rfl
@[simp] theorem observe_NEG (o : Observed) (s : State) : (observe o s).NEG = s.NEG := rfl
@[simp] theorem observe_T_VALID (o : Observed) (s : State) : (observe o s).T_VALID = s.T_VALID := rfl
@[simp] theorem observe_K_VALID (o : Observed) (s : State) : (observe o s).K_VALID = s.K_VALID := rfl
@[simp] theorem observe_KI_VALID (o : Observed) (s : State) : (observe o s).KI_VALID = s.KI_VALID := rfl
@[simp] theorem observe_VERIFIED (o : Observed) (s : State) : (observe o s).VERIFIED = s.VERIFIED := rfl
@[simp] theorem observe_J_VALID (o : Observed) (s : State) : (observe o s).J_VALID = s.J_VALID := rfl
@[simp] theorem observe_ERR_CODE (o : Observed) (s : State) : (observe o s).ERR_CODE = s.ERR_CODE := rfl
@[simp] theorem observe_ERRINFO (o : Observed) (s : State) : (observe o s).ERRINFO = s.ERRINFO := rfl
@[simp] theorem observe_MADDR (o : Observed) (s : State) : (observe o s).MADDR = s.MADDR := rfl
@[simp] theorem observe_mem (o : Observed) (s : State) : (observe o s).mem = s.mem := rfl
@[simp] theorem observe_script (o : Observed) (s : State) : (observe o s).script = s.script := rfl
@[simp] theorem observe_pc (o : Observed) (s : State) : (observe o s).pc = s.pc := rfl
@[simp] theorem observe_obs (o : Observed) (s : State) : (observe o s).obs = s.obs ++ [o] := rfl

/-! ## resetCore -/

@[simp] theorem resetCore_S (s : State) : (resetCore s).S = zero4 := rfl
@[simp] theorem resetCore_V (s : State) : (resetCore s).V = 0 := rfl
@[simp] theorem resetCore_N (s : State) : (resetCore s).N = 0 := rfl
@[simp] theorem resetCore_J (s : State) : (resetCore s).J = zero4 := rfl
@[simp] theorem resetCore_NEG (s : State) : (resetCore s).NEG = false := rfl
@[simp] theorem resetCore_T_VALID (s : State) : (resetCore s).T_VALID = false := rfl
@[simp] theorem resetCore_K_VALID (s : State) : (resetCore s).K_VALID = false := rfl
@[simp] theorem resetCore_KI_VALID (s : State) : (resetCore s).KI_VALID = false := rfl
@[simp] theorem resetCore_VERIFIED (s : State) : (resetCore s).VERIFIED = false := rfl
@[simp] theorem resetCore_J_VALID (s : State) : (resetCore s).J_VALID = false := rfl
@[simp] theorem resetCore_ERR_CODE (s : State) : (resetCore s).ERR_CODE = .none := rfl
@[simp] theorem resetCore_ERRINFO (s : State) : (resetCore s).ERRINFO = 0 := rfl
@[simp] theorem resetCore_MADDR (s : State) : (resetCore s).MADDR = 0 := rfl
@[simp] theorem resetCore_mem (s : State) : (resetCore s).mem = ⟨loseRows s.mem.TS, loseRows s.mem.KS, loseRows s.mem.KIS⟩ := rfl
@[simp] theorem resetCore_script (s : State) : (resetCore s).script = s.script := rfl
@[simp] theorem resetCore_pc (s : State) : (resetCore s).pc = s.pc := rfl
@[simp] theorem resetCore_obs (s : State) : (resetCore s).obs = s.obs := rfl

/-! ## the stores of the memory -/

@[simp] theorem storeOf_withStore_same (mem : Memory) (m : StoreId) (st : RowStore) :
    storeOf (withStore mem m st) m = st := by cases m <;> rfl

theorem storeOf_withStore_other (mem : Memory) (m m' : StoreId) (st : RowStore) (h : m' ≠ m) :
    storeOf (withStore mem m st) m' = storeOf mem m' := by
  cases m <;> cases m' <;> first | rfl | exact absurd rfl h

@[simp] theorem withStore_withStore (mem : Memory) (m : StoreId) (a b : RowStore) :
    withStore (withStore mem m a) m b = withStore mem m b := by cases m <;> rfl

@[simp] theorem withStore_storeOf (mem : Memory) (m : StoreId) : withStore mem m (storeOf mem m) = mem := by
  cases m <;> rfl

@[simp] theorem stageState_done (s : State) : stageState (.done s) = s := rfl
@[simp] theorem stageState_raised (s : State) : stageState (.raised s) = s := rfl
@[simp] theorem andThen_done (s : State) (f : State → Stage) : andThen (.done s) f = f s := rfl
@[simp] theorem andThen_raised (s : State) (f : State → Stage) : andThen (.raised s) f = .raised s := rfl

@[simp] theorem advance_next (s : State) : advance (.next s) = .next { s with pc := s.pc + 1 } := rfl
@[simp] theorem advance_fault (f : Fault) : advance (.fault f) = .fault f := rfl
@[simp] theorem advance_refused (r : Refusal) : advance (.refused r) = .refused r := rfl

end Sys2Proof.Machine
end

