-- ==== Sys2Proof/Laws/Memory.lean ====
section
/-! SUPPORT. The matrix stores: read after write, that a write leaves every other row and store alone, and that every
memory operation keeps the canonical form. -/
namespace Sys2Proof.Machine

/-! ## One store -/

theorem lookup_insertRow_same (r : Nat) (v : Row) (rows : List (Nat × Row)) :
    (insertRow r v rows).lookup r = some v := by
  induction rows with
  | nil => simp [insertRow]
  | cons p rest ih =>
    obtain ⟨k, x⟩ := p
    unfold insertRow
    split
    · simp
    · split
      · simp
      · next h1 h2 => simp [List.lookup_cons, ih, beq_eq_false_iff_ne.mpr h2]

theorem lookup_insertRow_other (r r' : Nat) (v : Row) (rows : List (Nat × Row)) (h : r' ≠ r) :
    (insertRow r v rows).lookup r' = rows.lookup r' := by
  have hb : (r' == r) = false := beq_eq_false_iff_ne.mpr h
  induction rows with
  | nil => simp [insertRow, List.lookup_cons, hb]
  | cons p rest ih =>
    obtain ⟨k, x⟩ := p
    unfold insertRow
    split
    · simp [List.lookup_cons, hb]
    · split
      · next _ hk => subst hk; simp [List.lookup_cons, hb]
      · simp [List.lookup_cons, ih]

theorem readRow_writeRow_same (m : StoreId) (st : RowStore) (r : Nat) (v : Row) :
    readRow m (writeRow st r v) r = v := by
  simp [readRow, writeRow, lookup_insertRow_same]

theorem readRow_writeRow_other (m : StoreId) (st : RowStore) (r r' : Nat) (v : Row) (h : r' ≠ r) :
    readRow m (writeRow st r v) r' = readRow m st r' := by
  simp [readRow, writeRow, lookup_insertRow_other _ _ _ _ h]

/-! ## The canonical form -/

theorem keys_insertRow (r k : Nat) (v : Row) (rows : List (Nat × Row)) :
    k ∈ (insertRow r v rows).map Prod.fst ↔ k = r ∨ k ∈ rows.map Prod.fst := by
  induction rows with
  | nil => simp [insertRow]
  | cons p rest ih =>
    obtain ⟨j, x⟩ := p
    unfold insertRow
    split
    · simp
    · split
      · next _ hk => subst hk; simp
      · simp only [List.map_cons, List.mem_cons, ih]; tauto

theorem rising_insertRow (r : Nat) (v : Row) (rows : List (Nat × Row))
    (h : (rows.map Prod.fst).Pairwise (· < ·)) : ((insertRow r v rows).map Prod.fst).Pairwise (· < ·) := by
  induction rows with
  | nil => simp [insertRow]
  | cons p rest ih =>
    obtain ⟨j, x⟩ := p
    simp only [List.map_cons, List.pairwise_cons] at h
    unfold insertRow
    split
    · next hr =>
      simp only [List.map_cons, List.pairwise_cons, List.mem_cons]
      exact ⟨fun k hk => hk.elim (fun e => e ▸ hr) (fun hk => hr.trans (h.1 k hk)), h⟩
    · split
      · next _ hk => subst hk; simpa [List.pairwise_cons] using h
      · simp only [List.map_cons, List.pairwise_cons]
        refine ⟨fun k hk => ?_, ih h.2⟩
        rcases (keys_insertRow r k v rest).mp hk with rfl | hk
        · omega
        · exact h.1 k hk

theorem writeRow_wf (st : RowStore) (r : Nat) (v : Row) (hr : r < 256) (h : st.wf) : (writeRow st r v).wf := by
  refine ⟨rising_insertRow r v st.rows h.1, fun k hk => ?_⟩
  rcases (keys_insertRow r k v st.rows).mp hk with rfl | hk
  · exact hr
  · exact h.2 k hk

theorem loseRows_wf (st : RowStore) : (loseRows st).wf := by
  simp [loseRows, RowStore.wf]

theorem unwritten_wf : RowStore.unwritten.wf := by
  simp [RowStore.unwritten, RowStore.wf]

theorem withStore_wf (mem : Memory) (m : StoreId) (st : RowStore) (h : mem.wf) (hst : st.wf) :
    (withStore mem m st).wf := by
  obtain ⟨h1, h2, h3⟩ := h
  cases m
  · exact ⟨hst, h2, h3⟩
  · exact ⟨h1, hst, h3⟩
  · exact ⟨h1, h2, hst⟩

theorem storeOf_wf (mem : Memory) (m : StoreId) (h : mem.wf) : (storeOf mem m).wf := by
  obtain ⟨h1, h2, h3⟩ := h
  cases m <;> assumption

theorem memWrite_wf (m : StoreId) (r : Nat) (v : Row) (s : State) (hr : r < 256) (h : s.mem.wf) :
    (memWrite m r v s).mem.wf :=
  withStore_wf _ _ _ h (writeRow_wf _ _ _ hr (storeOf_wf _ _ h))

theorem loseKIS_wf (s : State) (h : s.mem.wf) : (loseKIS s).mem.wf :=
  withStore_wf _ _ _ h (loseRows_wf _)

theorem resetCore_wf (s : State) : (resetCore s).mem.wf :=
  ⟨loseRows_wf _, loseRows_wf _, loseRows_wf _⟩

theorem reset_wf : State.reset.mem.wf := ⟨unwritten_wf, unwritten_wf, unwritten_wf⟩

/-! ## MemRead and MemWrite -/

/-- A read sees the memory only. -/
theorem memRead_congr (m : StoreId) (r : Nat) (s t : State) (h : s.mem = t.mem) : memRead m r s = memRead m r t := by
  simp [memRead, h]

theorem memRead_memWrite_same (m : StoreId) (r : Nat) (v : Row) (s : State) :
    memRead m r (memWrite m r v s) = v := by
  simp [memRead, readRow_writeRow_same]

theorem memRead_memWrite_otherRow (m : StoreId) (r r' : Nat) (v : Row) (s : State) (h : r' ≠ r) :
    memRead m r' (memWrite m r v s) = memRead m r' s := by
  simp [memRead, readRow_writeRow_other _ _ _ _ _ h]

theorem memRead_memWrite_otherStore (m m' : StoreId) (r r' : Nat) (v : Row) (s : State) (h : m' ≠ m) :
    memRead m' r' (memWrite m r v s) = memRead m' r' s := by
  simp [memRead, storeOf_withStore_other _ _ _ _ h]

/-! ## Whole matrices -/

/-- Writing rows one after another touches one store only. -/
theorem foldl_memWrite (m : StoreId) (f : Nat → Row) (l : List Nat) (s : State) :
    l.foldl (fun s r => memWrite m r (f r) s) s
      = { s with mem := withStore s.mem m (l.foldl (fun st r => writeRow st r (f r)) (storeOf s.mem m)) } := by
  induction l generalizing s with
  | nil => simp
  | cons r l ih => simp [ih]

/-- Writing a matrix is MemWrite on rows 0..255, one after another. -/
theorem memWithMatrix_eq_foldl (m : StoreId) (M : Matrix) (s : State) :
    ((List.range 256).foldl (fun s r => memWrite m r (rowOf M r) s) s).mem = memWithMatrix s.mem m M := by
  rw [foldl_memWrite]; rfl

theorem readRow_foldl_writeRow (m : StoreId) (f : Nat → Row) (l : List Nat) (st : RowStore) (r : Nat) :
    readRow m (l.foldl (fun st r => writeRow st r (f r)) st) r = if r ∈ l then f r else readRow m st r := by
  induction l generalizing st with
  | nil => simp
  | cons k l ih =>
    rw [List.foldl_cons, ih]
    by_cases hk : r = k
    · subst hk; simp [readRow_writeRow_same]
    · simp [hk, readRow_writeRow_other _ _ _ _ _ hk]

theorem storeOf_memWithMatrix_same (mem : Memory) (m : StoreId) (M : Matrix) :
    storeOf (memWithMatrix mem m M) m = writeRows (storeOf mem m) M := storeOf_withStore_same _ _ _

theorem storeOf_memWithMatrix_other (mem : Memory) (m m' : StoreId) (M : Matrix) (h : m' ≠ m) :
    storeOf (memWithMatrix mem m M) m' = storeOf mem m' := storeOf_withStore_other _ _ _ _ h

/-- A state whose memory was written with a matrix reads it back. -/
theorem memRead_of_matrix (m : StoreId) (M : Matrix) (mem : Memory) (t : State) (r : Nat)
    (ht : t.mem = memWithMatrix mem m M) (h : r < 256) : memRead m r t = rowOf M r := by
  rw [memRead, ht, storeOf_memWithMatrix_same, writeRows, readRow_foldl_writeRow, if_pos (List.mem_range.mpr h)]

/-- Writing a matrix to one store leaves the others alone. -/
theorem memRead_of_otherMatrix (m m' : StoreId) (M : Matrix) (s t : State) (r : Nat)
    (ht : t.mem = memWithMatrix s.mem m M) (h : m' ≠ m) : memRead m' r t = memRead m' r s := by
  rw [memRead, ht, storeOf_memWithMatrix_other _ _ _ _ h, memRead]

theorem foldl_writeRow_wf (f : Nat → Row) (l : List Nat) (st : RowStore) (hl : ∀ r ∈ l, r < 256) (h : st.wf) :
    (l.foldl (fun st r => writeRow st r (f r)) st).wf := by
  induction l generalizing st with
  | nil => exact h
  | cons k l ih =>
    exact ih _ (fun r hr => hl r (List.mem_cons_of_mem _ hr)) (writeRow_wf _ _ _ (hl k List.mem_cons_self) h)

theorem memWithMatrix_wf (mem : Memory) (m : StoreId) (M : Matrix) (h : mem.wf) : (memWithMatrix mem m M).wf :=
  withStore_wf _ _ _ h
    (foldl_writeRow_wf _ _ _ (fun _ hr => List.mem_range.mp hr) (storeOf_wf _ _ h))

@[simp] theorem length_readMatrix (m : StoreId) (s : State) : (readMatrix m s).length = 256 := by
  simp [readMatrix]

theorem rowOf_readMatrix (m : StoreId) (s : State) (r : Nat) (h : r < 256) :
    rowOf (readMatrix m s) r = memRead m r s := by
  simp [rowOf, readMatrix, List.getD, h]

theorem readMatrix_congr (m : StoreId) (s t : State) (h : ∀ r < 256, memRead m r s = memRead m r t) :
    readMatrix m s = readMatrix m t := by
  simp only [readMatrix]
  exact List.map_congr_left (fun r hr => h r (List.mem_range.mp hr))

theorem readMatrix_of_matrix (m : StoreId) (M : Matrix) (mem : Memory) (t : State)
    (ht : t.mem = memWithMatrix mem m M) (h : M.length = 256) : readMatrix m t = M := by
  apply List.ext_getElem
  · simp [h]
  · intro r h1 h2
    have hr : r < 256 := by simpa using h1
    have := memRead_of_matrix m M mem t r ht hr
    simpa [readMatrix, rowOf, List.getD, h2] using this

theorem readMatrix_of_otherMatrix (m m' : StoreId) (M : Matrix) (s t : State)
    (ht : t.mem = memWithMatrix s.mem m M) (h : m' ≠ m) : readMatrix m' t = readMatrix m' s :=
  readMatrix_congr _ _ _ (fun r _ => memRead_of_otherMatrix m m' M s t r ht h)

theorem memRead_loseKIS (m : StoreId) (r : Nat) (s : State) (h : m ≠ .KIS) :
    memRead m r (loseKIS s) = memRead m r s := by
  simp [memRead, storeOf_withStore_other _ _ _ _ h]

end Sys2Proof.Machine
end

