-- ==== Sys2Proof/Laws/Vectors.lean ====
section
/-! SUPPORT. Bits of vectors and matrices: the codec, vectors built bit by bit, basis vectors, the products of
00_scope.md R10 and matrices given by their columns, one element at a time. -/
namespace Sys2Proof.Machine

/-! ## The codec -/

/-- Bit `i` of a codec value, by the word it lies in. -/
theorem getLsbD_encodeState (q : Words4) (i : Nat) :
    (encodeState q).getLsbD i =
      if i < 64 then q.w0.getLsbD i
      else if i < 128 then q.w1.getLsbD (i - 64)
      else if i < 192 then q.w2.getLsbD (i - 128)
      else q.w3.getLsbD (i - 192) := by
  have h2 : i - 64 - 64 = i - 128 := by omega
  have h3 : i - 128 - 64 = i - 192 := by omega
  simp only [encodeState, BitVec.getLsbD_append, h2, h3]
  split_ifs <;> first | omega | rfl

theorem getLsbD_rowWord (v : Row) (w : WordIdx) (k : Nat) (hk : k < 64) :
    (rowWord v w).getLsbD k = v.getLsbD (64 * w.val + k) := by
  match w with
  | 0 => simp [rowWord, wordOf, decodeRow, hk]
  | 1 => simp [rowWord, wordOf, decodeRow, hk]
  | 2 => simp [rowWord, wordOf, decodeRow, hk]
  | 3 => simp [rowWord, wordOf, decodeRow, hk]

theorem wordOf_withWord_same (q : Words4) (w : WordIdx) (d : Word) : wordOf (withWord q w d) w = d := by
  match w with
  | 0 => rfl
  | 1 => rfl
  | 2 => rfl
  | 3 => rfl

theorem wordOf_withWord_other (q : Words4) (w w' : WordIdx) (d : Word) (h : w' ≠ w) :
    wordOf (withWord q w d) w' = wordOf q w' := by
  match w, w' with
  | 0, 0 => exact absurd rfl h
  | 0, 1 => rfl
  | 0, 2 => rfl
  | 0, 3 => rfl
  | 1, 0 => rfl
  | 1, 1 => exact absurd rfl h
  | 1, 2 => rfl
  | 1, 3 => rfl
  | 2, 0 => rfl
  | 2, 1 => rfl
  | 2, 2 => exact absurd rfl h
  | 2, 3 => rfl
  | 3, 0 => rfl
  | 3, 1 => rfl
  | 3, 2 => rfl
  | 3, 3 => exact absurd rfl h

theorem words4_ext (a b : Words4) (h : ∀ w, wordOf a w = wordOf b w) : a = b := by
  obtain ⟨a0, a1, a2, a3⟩ := a
  obtain ⟨b0, b1, b2, b3⟩ := b
  have h0 := h 0
  have h1 := h 1
  have h2 := h 2
  have h3 := h 3
  simp only [wordOf] at h0 h1 h2 h3
  subst h0 h1 h2 h3
  rfl

/-! ## Vectors bit by bit -/

theorem getLsbD_bitsToRow (l : List Bool) (i : Nat) :
    (bitsToRow l).getLsbD i = (decide (i < 256) && l.getD i false) := by
  induction l generalizing i with
  | nil => simp [bitsToRow]
  | cons b bs ih =>
    simp only [bitsToRow, BitVec.getLsbD_or, BitVec.getLsbD_shiftLeft, ih]
    cases i with
    | zero => cases b <;> simp
    | succ i =>
      have hb : (if b then (1 : Row) else 0).getLsbD (i + 1) = false := by
        cases b <;> simp
      rw [hb]
      by_cases h : i + 1 < 256
      · have : i < 256 := by omega
        simp [h, this]
      · simp [h]

theorem getLsbD_basisRow (i j : Nat) : (basisRow i).getLsbD j = (decide (j < 256) && decide (j = i)) := by
  simp only [basisRow, BitVec.getLsbD_shiftLeft, BitVec.getLsbD_one]
  by_cases h : j < 256 <;> by_cases h1 : j < i <;> by_cases h2 : j = i <;> simp [h, h1, h2]
  all_goals omega

/-! ## Products -/

theorem foldl_xor (l : List Nat) (f : Nat → Bool) (b : Bool) :
    l.foldl (fun acc c => acc ^^ f c) b = (b ^^ l.foldl (fun acc c => acc ^^ f c) false) := by
  induction l generalizing b with
  | nil => simp
  | cons c l ih => rw [List.foldl_cons, List.foldl_cons, ih, ih (false ^^ f c)]; simp

theorem getLsbD_matVec (M : Matrix) (v : Row) (r : Nat) (h : M.length = 256) (hr : r < 256) :
    (matVec M v).getLsbD r = dot (rowOf M r) v := by
  rw [matVec, getLsbD_bitsToRow]
  simp [hr, rowOf, List.getD, h]

theorem combineRows_cons (a : Row) (k : Nat) (b : Row) (bs : Matrix) :
    combineRows a k (b :: bs) = (if a.getLsbD k then b else 0) ^^^ combineRows a (k + 1) bs := rfl

@[simp] theorem length_matMul (A B : Matrix) : (matMul A B).length = A.length := by simp [matMul]

theorem rowOf_matMul (A B : Matrix) (r : Nat) (h : r < A.length) :
    rowOf (matMul A B) r = combineRows (rowOf A r) 0 B := by
  simp [rowOf, matMul, List.getD, h]

@[simp] theorem length_identity : identity.length = 256 := by simp [identity]

theorem rowOf_identity (r : Nat) (h : r < 256) : rowOf identity r = basisRow r := by
  simp [rowOf, identity, List.getD, h]

@[simp] theorem length_ofColumns (cols : List Row) : (ofColumns cols).length = 256 := by simp [ofColumns]

theorem getLsbD_ofColumns (cols : List Row) (r c : Nat) (hr : r < 256) (hc : c < 256) :
    (rowOf (ofColumns cols) r).getLsbD c = (cols.getD c 0).getLsbD r := by
  simp only [rowOf, ofColumns, List.getD, List.getElem?_map, List.getElem?_range hr, Option.map_some, Option.getD_some,
    getLsbD_bitsToRow, hc, decide_true, Bool.true_and]
  cases cols[c]? <;> simp

theorem getLsbD_columnOf (M : Matrix) (c r : Nat) (hr : r < 256) :
    (columnOf M c).getLsbD r = (rowOf M r).getLsbD c := by
  simp only [columnOf, getLsbD_bitsToRow, hr, decide_true, Bool.true_and, rowOf, List.getD, List.getElem?_map]
  cases M[r]? <;> simp

@[simp] theorem length_krylov (M : Matrix) (n : Nat) (v : Row) : (krylov M n v).length = n := by
  induction n generalizing v with
  | zero => rfl
  | succ n ih => simp [krylov, ih]

@[simp] theorem length_tMat : tMat.length = 256 := by simp [tMat]

@[simp] theorem length_krylovMatrix (M : Matrix) : (krylovMatrix M).length = 256 := by simp [krylovMatrix]

/-! ## Basis vectors and the identity -/

theorem dot_comm (a b : Row) : dot a b = dot b a := by
  simp only [dot, Bool.and_comm]

/-- The product of a row with a basis vector picks one bit. -/
theorem dot_basisRow (a : Row) (i : Nat) (hi : i < 256) : dot a (basisRow i) = a.getLsbD i := by
  have h : ∀ n ≤ 256, (List.range n).foldl (fun acc c => acc ^^ (a.getLsbD c && (basisRow i).getLsbD c)) false
      = (decide (i < n) && a.getLsbD i) := by
    intro n
    induction n with
    | zero => intro _; rfl
    | succ n ih =>
      intro hn
      rw [List.range_succ, List.foldl_append, ih (by omega), List.foldl_cons, List.foldl_nil, getLsbD_basisRow]
      rcases Nat.lt_trichotomy i n with h | h | h
      · simp [h, show n ≠ i by omega, show i < n + 1 by omega]
      · subst h; simp [hi]
      · simp [show ¬ i < n by omega, show n ≠ i by omega, show ¬ i < n + 1 by omega]
  rw [dot, h 256 (Nat.le_refl _)]
  simp [hi]

/-- A matrix takes a basis vector to one of its columns. -/
theorem matVec_basisRow (M : Matrix) (c : Nat) (h : M.length = 256) (hc : c < 256) :
    matVec M (basisRow c) = columnOf M c := by
  apply BitVec.eq_of_getLsbD_eq
  intro r hr
  rw [getLsbD_matVec M _ r h hr, dot_basisRow _ _ hc, getLsbD_columnOf M c r hr]

theorem matVec_identity (v : Row) : matVec identity v = v := by
  apply BitVec.eq_of_getLsbD_eq
  intro r hr
  rw [getLsbD_matVec _ _ r length_identity hr, rowOf_identity r hr, dot_comm, dot_basisRow _ _ hr]

/-- A basis vector combines rows to one of them. -/
theorem combineRows_basisRow (r k : Nat) (B : Matrix) (hr : r < 256) :
    combineRows (basisRow r) k B = if k ≤ r then B.getD (r - k) 0 else 0 := by
  induction B generalizing k with
  | nil => simp [combineRows]
  | cons b bs ih =>
    rw [combineRows_cons, ih, getLsbD_basisRow]
    rcases Nat.lt_trichotomy k r with h | h | h
    · have hs : r - k = (r - (k + 1)) + 1 := by omega
      rw [if_pos (by omega : k + 1 ≤ r), if_pos (by omega : k ≤ r), hs]
      simp [show k ≠ r by omega]
    · subst h; simp [hr]
    · simp [show ¬ k ≤ r by omega, show ¬ k + 1 ≤ r by omega, show k ≠ r by omega]

theorem matMul_identity_left (B : Matrix) (h : B.length = 256) : matMul identity B = B := by
  apply List.ext_getElem
  · simp [h]
  · intro r h1 h2
    have hr : r < 256 := by omega
    have := rowOf_matMul identity B r (by simpa using hr)
    rw [rowOf_identity r hr, combineRows_basisRow r 0 B hr, if_pos (Nat.zero_le r)] at this
    simpa [rowOf, List.getD, h2, hr] using this

/-- A matrix given by its columns has those columns. -/
theorem columnOf_ofColumns (cols : List Row) (c : Nat) (hc : c < 256) :
    columnOf (ofColumns cols) c = cols.getD c 0 := by
  apply BitVec.eq_of_getLsbD_eq
  intro r hr
  rw [getLsbD_columnOf _ _ _ hr, getLsbD_ofColumns _ _ _ hr hc]

/-- The identity is the matrix whose column `c` is the basis vector `c`. -/
theorem ofColumns_identity : ofColumns identity = identity := by
  apply List.ext_getElem
  · simp
  · intro r h1 h2
    have hr : r < 256 := by simpa using h1
    have he : rowOf (ofColumns identity) r = rowOf identity r := by
      apply BitVec.eq_of_getLsbD_eq
      intro c hc
      have hcol : identity.getD c 0 = basisRow c := rowOf_identity c hc
      rw [getLsbD_ofColumns _ _ _ hr hc, rowOf_identity r hr, hcol, getLsbD_basisRow, getLsbD_basisRow]
      simp [hr, hc, eq_comm]
    simpa [rowOf, List.getD, hr] using he

end Sys2Proof.Machine
end

