-- ==== Sys2Proof/Laws/Elimination.lean ====
section
/-! SUPPORT. The steps of Gauss-Jordan elimination (42_inversion.md R116), each said once: what the pivot scan finds, and
what the swap and the elimination loop leave in every row. -/
namespace Sys2Proof.Machine

/-- Row `r` of both halves. -/
abbrev pairAt (rows : Augmented) (r : Nat) : Row × Row := rows.getD r (0, 0)

theorem pairAt_zip (A B : Matrix) (r : Nat) (hA : r < A.length) (hB : r < B.length) :
    pairAt (A.zip B) r = (rowOf A r, rowOf B r) := by
  have hz : r < (A.zip B).length := by rw [List.length_zip]; omega
  rw [pairAt, rowOf, rowOf, List.getD_eq_getElem _ _ hz, List.getElem_zip, List.getD_eq_getElem _ _ hA,
    List.getD_eq_getElem _ _ hB]

/-- Two augmented matrices of one length with the same rows are equal. -/
theorem augmented_ext (X Y : Augmented) (hl : X.length = Y.length) (h : ∀ r < Y.length, pairAt X r = pairAt Y r) :
    X = Y := by
  apply List.ext_getElem hl
  intro r h1 h2
  have := h r h2
  rwa [pairAt, pairAt, List.getD_eq_getElem _ _ h1, List.getD_eq_getElem _ _ h2] at this

/-- The scan finds the lowest row from `c` on with a 1 in column `c`. -/
theorem findPivot_some (rows : Augmented) (c p : Nat) (h : findPivot rows c = some p) :
    c ≤ p ∧ p < 256 ∧ (pairAt rows p).1.getLsbD c = true ∧
      ∀ q, c ≤ q → q < p → (pairAt rows q).1.getLsbD c = false := by
  unfold findPivot at h
  rw [List.find?_range'_eq_some] at h
  obtain ⟨hb, hm, hl⟩ := h
  rw [List.mem_range'_1] at hm
  exact ⟨hm.1, by omega, hb, fun q h1 h2 => by simpa using hl q h1 h2⟩

/-- The scan fails when every row from `c` on has a 0 in column `c`. -/
theorem findPivot_none (rows : Augmented) (c : Nat) :
    findPivot rows c = none ↔ ∀ q, c ≤ q → q < 256 → (pairAt rows q).1.getLsbD c = false := by
  unfold findPivot
  rw [List.find?_eq_none]
  constructor
  · intro h q h1 h2
    simpa using h q (List.mem_range'_1.mpr ⟨h1, by omega⟩)
  · intro h q hq
    rw [List.mem_range'_1] at hq
    simpa using h q hq.1 (by omega)

@[simp] theorem length_swapRows (rows : Augmented) (p c : Nat) : (swapRows rows p c).length = rows.length := by
  simp [swapRows]

/-- The swap exchanges two rows of both halves and leaves the others. -/
theorem pairAt_swapRows (rows : Augmented) (p c r : Nat) (hp : p < rows.length) (hc : c < rows.length) :
    pairAt (swapRows rows p c) r
      = if r = c then pairAt rows p else if r = p then pairAt rows c else pairAt rows r := by
  simp only [pairAt, swapRows, List.getD_eq_getElem?_getD, List.getElem?_set, List.length_set]
  by_cases h1 : r = c
  · subst h1; simp [hc]
  · by_cases h2 : r = p
    · subst h2; simp [h1, hp, Ne.symm h1]
    · simp [h1, h2, Ne.symm h1, Ne.symm h2]

@[simp] theorem length_eliminate (c : Nat) (pivot : Row × Row) (r : Nat) (rows : Augmented) :
    (eliminate c pivot r rows).length = rows.length := by
  induction rows generalizing r with
  | nil => rfl
  | cons x xs ih => simp [eliminate, ih]

/-- The elimination loop XORs the pivot row into every other row with a 1 in column `c`. -/
theorem pairAt_eliminate (c : Nat) (pivot : Row × Row) (r i : Nat) (rows : Augmented) (hi : i < rows.length) :
    pairAt (eliminate c pivot r rows) i
      = if r + i ≠ c ∧ (pairAt rows i).1.getLsbD c = true
        then ((pairAt rows i).1 ^^^ pivot.1, (pairAt rows i).2 ^^^ pivot.2) else pairAt rows i := by
  induction rows generalizing r i with
  | nil => simp at hi
  | cons x xs ih =>
    cases i with
    | zero => simp [pairAt, eliminate]
    | succ i =>
      have hx : r + 1 + i = r + (i + 1) := by omega
      have := ih (r + 1) i (by simpa using hi)
      rw [hx] at this
      simpa [pairAt, eliminate] using this

/-- One column of the loop. -/
theorem gaussJordanLoop_cons (c p : Nat) (cs : List Nat) (rows : Augmented) (h : findPivot rows c = some p) :
    gaussJordanLoop (c :: cs) rows
      = gaussJordanLoop cs (eliminate c (pairAt (swapRows rows p c) c) 0 (swapRows rows p c)) := by
  simp only [gaussJordanLoop, h]

theorem gaussJordanLoop_fail (c : Nat) (cs : List Nat) (rows : Augmented) (h : findPivot rows c = none) :
    gaussJordanLoop (c :: cs) rows = .fail c := by
  simp only [gaussJordanLoop, h]

end Sys2Proof.Machine
end

