-- ==== Sys2Proof/Laws/PerInstr.lean ====
section
/-! SUPPORT. Per-instruction families: `TableWord` says of a command that it is well formed and that the decoder reads
it back from its own word, numbered as spec/opcode_table.json numbers it (30_encoding.md R73). -/
namespace Sys2Proof.Laws.TableWord

/-- The command is well formed and its word decodes to it. -/
def Statement (i : Instr) : Prop := i.wf = true ∧ decodeTableWord 32 (encode i).toNat = some i

theorem nop : Statement .nop := ⟨rfl, rfl⟩
theorem step : Statement .step := ⟨rfl, rfl⟩
theorem enc : Statement .enc := ⟨rfl, rfl⟩
theorem dec : Statement .dec := ⟨rfl, rfl⟩
theorem buildT : Statement .buildT := ⟨rfl, rfl⟩
theorem buildK : Statement .buildK := ⟨rfl, rfl⟩
theorem invK : Statement .invK := ⟨rfl, rfl⟩
theorem verify : Statement .verify := ⟨rfl, rfl⟩
theorem init : Statement .init := ⟨rfl, rfl⟩
theorem mvmulT : Statement .mvmulT := ⟨rfl, rfl⟩
theorem mvmulK : Statement .mvmulK := ⟨rfl, rfl⟩
theorem mvmulKI : Statement .mvmulKI := ⟨rfl, rfl⟩
theorem jumpGen : Statement .jumpGen := ⟨rfl, rfl⟩
theorem jApply : Statement .jApply := ⟨rfl, rfl⟩
theorem clrErr : Statement .clrErr := ⟨rfl, rfl⟩

end Sys2Proof.Laws.TableWord
end

