-- ==== Sys2Proof/Laws/Stages.lean ====
section
/-! SUPPORT. What each stage and Ensure step can do, said once (41_matrix_build.md R102, R106, R108, 42_inversion.md
R117, 43_jump.md R135): later proofs cite these and do not unfold the stages. -/
namespace Sys2Proof.Machine

theorem ensureT_valid (s : State) (h : s.T_VALID = true) : ensureT s = s := by simp [ensureT, h]

theorem ensureT_invalid (s : State) (h : s.T_VALID = false) : ensureT s = doBuildT s := by simp [ensureT, h]

/-- DoBuildT writes store `TS` and `T_VALID`, and nothing else. -/
theorem doBuildT_eq (s : State) :
    doBuildT s = { s with mem := memWithMatrix s.mem .TS tMat, T_VALID := true } := rfl

@[simp] theorem doBuildT_mem (s : State) : (doBuildT s).mem = memWithMatrix s.mem .TS tMat := rfl

theorem memRead_doBuildT (s : State) (r : Nat) (h : r < 256) : memRead .TS r (doBuildT s) = rowOf tMat r :=
  memRead_of_matrix .TS tMat s.mem _ r (doBuildT_mem s) h

theorem readMatrix_doBuildT (s : State) : readMatrix .TS (doBuildT s) = tMat :=
  readMatrix_of_matrix .TS tMat s.mem _ (doBuildT_mem s) length_tMat

theorem doBuildT_wf (s : State) (h : s.mem.wf) : (doBuildT s).mem.wf := by
  rw [doBuildT_mem]; exact memWithMatrix_wf _ _ _ h

/-- DoBuildK writes store `KS` and `K_VALID`, and nothing else. -/
theorem doBuildK_eq (s : State) :
    doBuildK s = { s with mem := memWithMatrix s.mem .KS (krylovMatrix (readMatrix .TS s)), K_VALID := true } := rfl

@[simp] theorem doBuildK_mem (s : State) :
    (doBuildK s).mem = memWithMatrix s.mem .KS (krylovMatrix (readMatrix .TS s)) := rfl

theorem readMatrix_doBuildK (s : State) : readMatrix .KS (doBuildK s) = krylovMatrix (readMatrix .TS s) :=
  readMatrix_of_matrix .KS _ s.mem _ (doBuildK_mem s) (length_krylovMatrix _)

theorem doBuildK_wf (s : State) (h : s.mem.wf) : (doBuildK s).mem.wf := by
  rw [doBuildK_mem]; exact memWithMatrix_wf _ _ _ h

/-- EnsureT does nothing, or DoBuildT. -/
theorem ensureT_cases (s : State) :
    (s.T_VALID = true ∧ ensureT s = s) ∨ (s.T_VALID = false ∧ ensureT s = doBuildT s) := by
  cases h : s.T_VALID
  · exact .inr ⟨rfl, ensureT_invalid s h⟩
  · exact .inl ⟨rfl, ensureT_valid s h⟩

theorem ensureT_T_VALID (s : State) : (ensureT s).T_VALID = true := by
  rcases ensureT_cases s with ⟨h, e⟩ | ⟨_, e⟩
  · rw [e, h]
  · rw [e]; rfl

/-- EnsureK is EnsureT, and then nothing or DoBuildK. -/
theorem ensureK_cases (s : State) :
    ((ensureT s).K_VALID = true ∧ ensureK s = ensureT s) ∨
    ((ensureT s).K_VALID = false ∧ ensureK s = doBuildK (ensureT s)) := by
  cases h : (ensureT s).K_VALID
  · exact .inr ⟨rfl, by simp [ensureK, h]⟩
  · exact .inl ⟨rfl, by simp [ensureK, h]⟩

theorem ensureK_valid (s : State) (ht : s.T_VALID = true) (hk : s.K_VALID = true) : ensureK s = s := by
  simp [ensureK, ensureT_valid s ht, hk]

theorem ensureK_K_VALID (s : State) : (ensureK s).K_VALID = true := by
  rcases ensureK_cases s with ⟨h, e⟩ | ⟨_, e⟩
  · rw [e, h]
  · rw [e]; rfl

theorem ensureK_T_VALID (s : State) : (ensureK s).T_VALID = true := by
  rcases ensureK_cases s with ⟨_, e⟩ | ⟨_, e⟩
  · rw [e, ensureT_T_VALID]
  · rw [e, doBuildK_eq]; exact ensureT_T_VALID s

/-- The state in which DoInvK runs the elimination: the three flags cleared, 42_inversion.md R117. -/
def invStart (s : State) : State := { s with KI_VALID := false, VERIFIED := false, J_VALID := false }

/-- The elimination reads store `KS` only. -/
theorem doInvK_start (s : State) :
    doInvK s = match gaussJordan (readMatrix .KS s) with
      | .fail c => .raised (raise .singular (BitVec.ofNat 64 c) (loseKIS (invStart s)))
      | .ok x => .done { invStart s with mem := memWithMatrix s.mem .KIS x, KI_VALID := true } := rfl

theorem doInvK_fail (s : State) (c : Nat) (h : gaussJordan (readMatrix .KS s) = .fail c) :
    doInvK s = .raised (raise .singular (BitVec.ofNat 64 c) (loseKIS (invStart s))) := by
  rw [doInvK_start, h]

theorem doInvK_ok (s : State) (x : Matrix) (h : gaussJordan (readMatrix .KS s) = .ok x) :
    doInvK s = .done { invStart s with mem := memWithMatrix s.mem .KIS x, KI_VALID := true } := by
  rw [doInvK_start, h]

/-- DoInvK ends in Singular with the failing column, or with the inverse in store `KIS`. -/
theorem doInvK_cases (s : State) :
    (∃ c, gaussJordan (readMatrix .KS s) = .fail c ∧
      doInvK s = .raised (raise .singular (BitVec.ofNat 64 c) (loseKIS (invStart s)))) ∨
    (∃ x, gaussJordan (readMatrix .KS s) = .ok x ∧
      doInvK s = .done { invStart s with mem := memWithMatrix s.mem .KIS x, KI_VALID := true }) := by
  cases h : gaussJordan (readMatrix .KS s) with
  | ok x => exact .inr ⟨x, rfl, doInvK_ok s x h⟩
  | fail c => exact .inl ⟨c, rfl, doInvK_fail s c h⟩

/-- EnsureKI is EnsureK, and then nothing or DoInvK. -/
theorem ensureKI_cases (s : State) :
    ((ensureK s).KI_VALID = true ∧ ensureKI s = .done (ensureK s)) ∨
    ((ensureK s).KI_VALID = false ∧ ensureKI s = doInvK (ensureK s)) := by
  cases h : (ensureK s).KI_VALID
  · exact .inr ⟨rfl, by simp [ensureKI, h]⟩
  · exact .inl ⟨rfl, by simp [ensureKI, h]⟩

theorem ensureKI_valid (s : State) (ht : s.T_VALID = true) (hk : s.K_VALID = true) (hki : s.KI_VALID = true) :
    ensureKI s = .done s := by
  simp [ensureKI, ensureK_valid s ht hk, hki]

/-- DoVerify ends in VerifyMismatch for 2^128, for 2^192, or with `VERIFIED` set. -/
theorem doVerify_cases (s : State) :
    (storedJump s (basisRow 128) ≠ Config.ref128 ∧
      doVerify s = .raised (raise .verifyMismatch 0 { s with VERIFIED := false, J_VALID := false })) ∨
    (storedJump s (basisRow 128) = Config.ref128 ∧ storedJump s (basisRow 192) ≠ Config.ref192 ∧
      doVerify s = .raised (raise .verifyMismatch 1 { s with VERIFIED := false, J_VALID := false })) ∨
    (storedJump s (basisRow 128) = Config.ref128 ∧ storedJump s (basisRow 192) = Config.ref192 ∧
      doVerify s = .done { s with VERIFIED := true }) := by
  have hr : ∀ n, jumpConstant (readMatrix .TS { s with VERIFIED := false })
      (readMatrix .KIS { s with VERIFIED := false }) n = storedJump s n := fun _ => rfl
  unfold doVerify
  simp only [hr]
  by_cases h1 : storedJump s (basisRow 128) = Config.ref128
  · by_cases h2 : storedJump s (basisRow 192) = Config.ref192
    · exact .inr (.inr ⟨h1, h2, by simp [h1, h2]⟩)
    · exact .inr (.inl ⟨h1, h2, by simp [h1, h2]⟩)
  · exact .inl ⟨h1, by simp [h1]⟩

/-- EnsureVerified is EnsureKI, and then nothing or DoVerify. -/
theorem ensureVerified_done (s t : State) (h : ensureKI s = .done t) :
    ensureVerified s = if t.VERIFIED then .done t else doVerify t := by
  simp [ensureVerified, h]

theorem ensureVerified_raised (s t : State) (h : ensureKI s = .raised t) : ensureVerified s = .raised t := by
  simp [ensureVerified, h]

theorem ensureVerified_valid (s : State) (ht : s.T_VALID = true) (hk : s.K_VALID = true) (hki : s.KI_VALID = true)
    (hv : s.VERIFIED = true) : ensureVerified s = .done s := by
  rw [ensureVerified_done s s (ensureKI_valid s ht hk hki), hv]; rfl

/-! ## The flags, whole -/

@[simp] theorem flagsOf_raise (f : ErrCode) (i : Word) (s : State) : flagsOf (raise f i s) = flagsOf s := rfl
@[simp] theorem flagsOf_loseKIS (s : State) : flagsOf (loseKIS s) = flagsOf s := rfl
@[simp] theorem flagsOf_multiplyV (m : StoreId) (s : State) : flagsOf (multiplyV m s) = flagsOf s := rfl
@[simp] theorem flagsOf_emitJump (s : State) : flagsOf (emitJump s) = { flagsOf s with J_VALID := true } := rfl
@[simp] theorem flagsOf_observe (o : Observed) (s : State) : flagsOf (observe o s) = flagsOf s := rfl
@[simp] theorem flagsOf_resetCore (s : State) : flagsOf (resetCore s) = ⟨false, false, false, false, false, false⟩ := rfl
@[simp] theorem flagsOf_invStart (s : State) :
    flagsOf (invStart s) = { flagsOf s with KI_VALID := false, VERIFIED := false, J_VALID := false } := rfl

theorem flagsOf_clearFault (s : State) : flagsOf (clearFault s) = flagsOf s := by
  unfold clearFault
  split <;> rfl

end Sys2Proof.Machine
end

