-- ==== Sys2Proof/Laws/Step.lean ====
section
/-! SUPPORT. What one step, one host event and one command can do, said once. -/
namespace Sys2Proof.Machine

/-- Every command answers a next state: no command rule stops the machine (60_exceptions.md R162). -/
theorem exec_next (i : Instr) (s : State) : ∃ t, exec i s = .next t := by
  cases i <;> exact ⟨_, rfl⟩

theorem step_event (s : State) (e : HostEvent) (h : s.script[s.pc]? = some e) : step s = advance (perform e s) := by
  simp [step, h]

theorem step_ended (s : State) (h : s.script[s.pc]? = none) : step s = .fault .scriptEnded := by
  simp [step, h]

/-- A step that answers a next state performed the event at `pc`. -/
theorem step_next (s t : State) (h : step s = .next t) :
    ∃ e u, s.script[s.pc]? = some e ∧ perform e s = .next u ∧ t = { u with pc := u.pc + 1 } := by
  unfold step at h
  split at h
  · cases h
  · next e he =>
    cases hp : perform e s with
    | next u =>
      rw [hp] at h
      cases h
      exact ⟨e, u, he, hp, rfl⟩
    | fault f => rw [hp] at h; cases h
    | refused r => rw [hp] at h; cases h

/-- RunCommand clears a fault, drops the word, records it as illegal, or runs its command: 20_memory.md R57. -/
theorem runCommand_cases (word : CmdWord) (s : State) :
    (s.ERR_CODE ≠ .none ∧ decode word = .ok .clrErr ∧ runCommand word s = .next (clearFault s)) ∨
    (s.ERR_CODE ≠ .none ∧ decode word ≠ .ok .clrErr ∧ runCommand word s = .next s) ∨
    (s.ERR_CODE = .none ∧ (∃ e, decode word = .error e) ∧
      runCommand word s = .next (raise .illegalCommand (word.setWidth 64) s)) ∨
    (s.ERR_CODE = .none ∧ ∃ i, decode word = .ok i ∧ runCommand word s = exec i s) := by
  by_cases h : s.ERR_CODE = .none
  · cases hd : decode word with
    | error e => exact .inr (.inr (.inl ⟨h, ⟨e, rfl⟩, by simp [runCommand, h, hd]⟩))
    | ok i => exact .inr (.inr (.inr ⟨h, i, rfl, by simp [runCommand, h, hd]⟩))
  · by_cases hd : decode word = .ok .clrErr
    · exact .inl ⟨h, hd, by simp [runCommand, h, hd, exec, execClrErr]⟩
    · refine .inr (.inl ⟨h, hd, ?_⟩)
      unfold runCommand
      rw [if_pos h]
      split
      · next hc => exact absurd hc hd
      · rfl

theorem runCommand_next (word : CmdWord) (s : State) : ∃ t, runCommand word s = .next t := by
  rcases runCommand_cases word s with ⟨_, _, h⟩ | ⟨_, _, h⟩ | ⟨_, _, h⟩ | ⟨_, i, _, h⟩
  · exact ⟨_, h⟩
  · exact ⟨_, h⟩
  · exact ⟨_, h⟩
  · rw [h]; exact exec_next i s

/-- A port write answers a next state, whatever the index and the data. -/
theorem portWrite_next (idx : PortIndex) (d : Word) (s : State) : ∃ t, portWrite idx d s = .next t := by
  unfold portWrite
  split
  · exact ⟨_, rfl⟩
  · next r _ =>
    cases r <;> first | exact runCommand_next _ s | exact ⟨_, rfl⟩

/-- A wrapper access that answers a next state is one the spec defines. -/
theorem busAccess_next (offset size : Nat) (k : Host.Outcome State Fault Refusal) (t : State)
    (h : busAccess offset size k = .next t) :
    busAligned offset size = true ∧ busInBlock offset = true ∧ k = .next t := by
  unfold busAccess at h
  split at h
  · cases h
  · split at h
    · cases h
    · next h1 h2 => exact ⟨by simpa using h1, by simpa using h2, h⟩

theorem busAccess_defined (offset size : Nat) (k : Host.Outcome State Fault Refusal)
    (h1 : busAligned offset size = true) (h2 : busInBlock offset = true) : busAccess offset size k = k := by
  simp [busAccess, h1, h2]

/-- Every event the spec defines answers a next state. -/
theorem perform_next (e : HostEvent) (s : State) (h : e.wf = true) : ∃ t, perform e s = .next t := by
  cases e with
  | portRead idx => exact ⟨_, rfl⟩
  | portWrite idx d => exact portWrite_next idx d s
  | rstN => exact ⟨_, rfl⟩
  | busRead offset size =>
    simp only [HostEvent.wf, Bool.and_eq_true] at h
    exact ⟨_, busAccess_defined _ _ _ h.1 h.2⟩
  | busWrite offset bytes =>
    simp only [HostEvent.wf, Bool.and_eq_true] at h
    simp only [perform, busAccess_defined _ _ _ h.1 h.2]
    exact portWrite_next _ _ s

/-- The event `placeEvent` places is the one at `pc`. -/
theorem placeEvent_at (script : List HostEvent) (pc : Nat) (e : HostEvent) :
    (placeEvent script pc e)[pc]? = some e := by
  unfold placeEvent
  have h : (script.take pc ++ List.replicate (pc - script.length) (HostEvent.portRead 0x00#8)).length = pc := by
    simp only [List.length_append, List.length_take, List.length_replicate]; omega
  rw [List.getElem?_append_right (by omega), h]
  simp

/-- The step after `withFetchWord` is the write of the word to `CMD`. -/
theorem step_withFetchWord (s : State) (nbits w : Nat) :
    step (s.withFetchWord nbits w) =
      advance (portWrite 0x00#8 (BitVec.ofNat 64 (w % 2 ^ nbits)) (s.withFetchWord nbits w)) := by
  rw [step_event (s.withFetchWord nbits w) _ (placeEvent_at s.script s.pc _)]
  rfl

/-- A step that performs a write to `CMD` runs the command. -/
theorem portWrite_cmd (d : Word) (s : State) : portWrite 0x00#8 d s = runCommand (d.setWidth 32) s := rfl

end Sys2Proof.Machine
end

