-- ==== Sys2Proof/Tests/Slice0.lean ====
section
/-! SUPPORT. The model's own tests. The expected values are those of spec/95_test_vectors.md (the section is named at each
group) or are written out by hand from the encoding of 30_encoding.md R71 and R73. Below them, one witness for the
hypotheses of each statement of Obligations.lean that has any. -/
namespace Sys2Proof.Tests
open Sys2Proof Sys2Proof.Machine

/-- The state of a test: reset with what the test names. -/
def s1234 : Words4 := ⟨1, 2, 3, 4⟩

/-- The state after an outcome; the one before it where the machine stopped. -/
def after (s : State) (x : Host.Outcome State Fault Refusal) : State :=
  match x with
  | .next t => t
  | .fault _ => s
  | .refused _ => s

/-- Port writes one after another. -/
def writes : List (PortIndex × Word) → State → State
  | [], s => s
  | (i, d) :: rest, s => writes rest (after s (portWrite i d s))

/-- An outcome is a next state. -/
def isNext (x : Host.Outcome State Fault Refusal) : Bool :=
  match x with
  | .next _ => true
  | .fault _ => false
  | .refused _ => false

/-! ## Decoding: words written out bit by bit, z (22 bits), m (2 bits), op (8 bits) -/

theorem test_decode_nop : decode 0b0000000000000000000000_00_00000000#32 = .ok .nop := by decide
theorem test_decode_step : decode 0b0000000000000000000000_00_00000001#32 = .ok .step := by decide
theorem test_decode_enc : decode 0b0000000000000000000000_00_00000010#32 = .ok .enc := by decide
theorem test_decode_dec : decode 0b0000000000000000000000_00_00000011#32 = .ok .dec := by decide
theorem test_decode_buildT : decode 0b0000000000000000000000_00_00010000#32 = .ok .buildT := by decide
theorem test_decode_buildK : decode 0b0000000000000000000000_00_00010001#32 = .ok .buildK := by decide
theorem test_decode_invK : decode 0b0000000000000000000000_00_00010010#32 = .ok .invK := by decide
theorem test_decode_verify : decode 0b0000000000000000000000_00_00010011#32 = .ok .verify := by decide
theorem test_decode_init : decode 0b0000000000000000000000_00_00010100#32 = .ok .init := by decide
theorem test_decode_mvmulT : decode 0b0000000000000000000000_00_00100000#32 = .ok .mvmulT := by decide
theorem test_decode_mvmulK : decode 0b0000000000000000000000_01_00100000#32 = .ok .mvmulK := by decide
theorem test_decode_mvmulKI : decode 0b0000000000000000000000_10_00100000#32 = .ok .mvmulKI := by decide
theorem test_decode_jumpGen : decode 0b0000000000000000000000_00_00110000#32 = .ok .jumpGen := by decide
theorem test_decode_jApply : decode 0b0000000000000000000000_00_00110001#32 = .ok .jApply := by decide
theorem test_decode_clrErr : decode 0b0000000000000000000000_00_00111111#32 = .ok .clrErr := by decide

/-- The illegal words of spec/95_test_vectors.md section 6. -/
theorem test_decode_illegal :
    ([0x320, 0x101, 0x110, 0x4, 0x15, 0x21, 0x32, 0x3e, 0xff, 0x400, 0x80000001, 0xffffffff].all
      (fun w => decodeTableWord 32 w == none)) = true := by decide

/-- Every word of the table runs as the first step after reset. -/
theorem test_first_step :
    ([0x00, 0x01, 0x02, 0x03, 0x10, 0x11, 0x12, 0x13, 0x14, 0x20, 0x120, 0x220, 0x30, 0x31, 0x3f].all
      (fun w => isNext (step (State.reset.withFetchWord 32 w)))) = true := by decide

/-! ## Well-formedness: an ill-formed access for each check, and the boundary accesses that pass -/

theorem test_wf_misaligned_read : (HostEvent.busRead 4 8).wf = false := by decide
theorem test_wf_short_read : (HostEvent.busRead 8 4).wf = false := by decide
theorem test_wf_read_past_block : (HostEvent.busRead 2048 8).wf = false := by decide
theorem test_wf_misaligned_write : (HostEvent.busWrite 12 [0, 0, 0, 0, 0, 0, 0, 0]).wf = false := by decide
theorem test_wf_short_write : (HostEvent.busWrite 8 [1, 2, 3, 4]).wf = false := by decide
theorem test_wf_write_past_block : (HostEvent.busWrite 2048 [0, 0, 0, 0, 0, 0, 0, 0]).wf = false := by decide
theorem test_wf_last_index : (HostEvent.busRead 2040 8).wf = true := by decide
theorem test_wf_commands : Instr.wf .mvmulKI = true := by decide

/-! ## StateStep and the codec, spec/95_test_vectors.md section 1 -/

theorem test_step_shift_and_rotate :
    stateStep ⟨0, 1, 0, 0⟩ = ⟨1, 1, 0x20000, 0x0000200000000000⟩ := by decide
theorem test_step_dense :
    (after State.reset (exec .step { State.reset with
      S := ⟨0x0123456789abcdef, 0xfedcba9876543210, 0xdeadbeefcafebabe, 0x0f1e2d3c4b5a6978⟩ })).S
      = ⟨0xf0e1d2c3b4a59687, 0x2152411035014541, 0xaabe172027757751, 0xcb6d1e3852f487a1⟩ := by decide

theorem test_enc_first_and_last_bit :
    (after State.reset (exec .enc { State.reset with S := ⟨1, 0, 0, 0x8000000000000000⟩ })).V
      = 0x8000000000000000000000000000000000000000000000000000000000000001#256 := by decide
theorem test_dec_element_64 :
    (after State.reset (exec .dec { State.reset with V := 0x10000000000000000#256 })).S = ⟨0, 1, 0, 0⟩ := by decide

/-! ## Matrices, spec/95_test_vectors.md section 2 -/

theorem test_buildT_row_145 : decodeRow (rowOf tMat 145) = ⟨0x20000, 1, 0x20000, 0⟩ := by decide +kernel
theorem test_buildT_status : statusWord (after State.reset (exec .buildT State.reset)) = 0x01 := by decide +kernel

theorem test_buildK_status : statusWord (after State.reset (exec .buildK State.reset)) = 0x03 := by decide +kernel
/-- Column 2 of `KMAT` is the state after two steps from `(1, 0, 0, 0)`. -/
theorem test_buildK_column_2 :
    stepTimes 2 ⟨1, 0, 0, 0⟩ = ⟨0, 1, 0x20000, 0x0000200000000000⟩ := by decide

theorem columnOf_tMat (c : Nat) (hc : c < 256) : columnOf tMat c = tColumn c := by
  have h : ((List.range 256).map tColumn).getD c 0 = tColumn c := by simp [List.getD, hc]
  rw [tMat, columnOf_ofColumns _ _ hc, h]

/-- MVMUL.T of basis vector 64 is column 64 of `TMAT`. -/
theorem test_mvmulT_column_64 :
    (multiplyV .TS (ensureT { State.reset with V := basisRow 64 })).V
      = encodeState ⟨1, 1, 0x20000, 0x0000200000000000⟩ := by
  rw [multiplyV_V, ensureT_invalid _ rfl, readMatrix_doBuildT, doBuildT_eq, matVec_basisRow _ _ length_tMat (by decide),
    columnOf_tMat _ (by decide)]
  decide +kernel

/-- MVMUL.K of `e0` gives column 0 of `KMAT`, which is `e0`. -/
theorem test_mvmulK_column_0 :
    (multiplyV .KS (doBuildK (doBuildT { State.reset with V := basisRow 0 }))).V = basisRow 0 := by
  rw [multiplyV_V, readMatrix_doBuildK, doBuildK_eq, doBuildT_eq, matVec_basisRow _ _ (length_krylovMatrix _) (by decide),
    krylovMatrix, columnOf_ofColumns _ _ (by decide)]
  rfl

/-! ## Faults and system commands, spec/95_test_vectors.md section 6 -/

theorem test_nop_keeps_fault_free : statusWord (after State.reset (exec .nop State.reset)) = 0 := by decide

/-- Lines 1 to 4: the illegal word is recorded, the first fault is kept, commands are dropped, registers are written. -/
theorem test_illegal_then_dropped :
    let s := writes [(0x00, 0x320), (0x00, 0x101), (0x00, 0x01), (0x0C, 9)] { State.reset with S := s1234 }
    portRead 0x02 s = 4 ∧ portRead 0x03 s = 0x320 ∧ portRead 0x01 s = 0x20 ∧ s.S = ⟨9, 2, 3, 4⟩ := by decide

/-- Line 5. -/
theorem test_clrErr :
    let s := writes [(0x00, 0x320), (0x00, 0x3f)] State.reset
    portRead 0x02 s = 0 ∧ portRead 0x03 s = 0 ∧ portRead 0x01 s = 0 := by decide

/-- A fatal fault is not cleared, and holds every command off. -/
theorem test_clrErr_fatal :
    let s := writes [(0x00, 0x3f), (0x00, 0x01)]
      { State.reset with S := s1234, ERR_CODE := .singular, ERRINFO := 7, T_VALID := true, K_VALID := true }
    portRead 0x02 s = 2 ∧ portRead 0x03 s = 7 ∧ portRead 0x01 s = 0x63 ∧ s.S = s1234 := by decide

/-- Lines 7 to 9: a negative count. -/
theorem test_jumpGen_negative :
    let s := writes [(0x05, 1), (0x00, 0x30), (0x00, 0x14)] State.reset
    portRead 0x02 s = 1 ∧ portRead 0x03 s = 0 ∧ portRead 0x01 s = 0x20 := by decide

/-- `N = 0` needs no product: the identity jump, here with an identity in store `KIS`. -/
theorem test_jumpGen_zero : jumpConstant tMat identity 0 = ⟨1, 0, 0, 0⟩ := by
  have h : powVec tMat 0 = basisRow 0 := rfl
  rw [jumpConstant, h, matVec_identity]
  decide

/-- Section 5, line 4: the polynomial `1 + x`. -/
theorem test_jApply_one_plus_x : jumpApply ⟨3, 0, 0, 0⟩ s1234 = ⟨6, 2, 0x40001, 0x0000c00000000004⟩ := by decide +kernel

/-! ## The port, spec/95_test_vectors.md section 7 -/

theorem test_port_reset_reads_zero :
    ((List.range 24).all (fun i => portRead (BitVec.ofNat 8 i) State.reset == 0)) = true := by decide
theorem test_port_reference_word : portRead 0x18 State.reset = 0x180ec6d33cfd0aba := by decide
theorem test_port_read_only :
    let s := writes [(0x01, 0xff), (0x18, 0), (0x20, 0x1234), (0xff, 1)] State.reset
    portRead 0x01 s = 0 ∧ portRead 0x18 s = 0x180ec6d33cfd0aba ∧ portRead 0x20 s = 0 ∧ portRead 0xff s = 0 := by decide
theorem test_port_stored_bits :
    portRead 0x05 (writes [(0x05, 0xfffffffffffffffe)] State.reset) = 0 ∧
    portRead 0x05 (writes [(0x05, 3)] State.reset) = 1 ∧
    portRead 0x06 (writes [(0x06, 0xffffffffffffffff)] State.reset) = 0xfff := by decide
theorem test_port_no_alias :
    let s := writes [(0x08, 5), (0x13, 7)] State.reset
    portRead 0x08 s = 5 ∧ portRead 0x0B s = 0 ∧ portRead 0x10 s = 0 ∧ portRead 0x13 s = 7 := by decide
theorem test_port_write_j_clears_flag :
    portRead 0x01 (writes [(0x16, 0)] { State.reset with J_VALID := true, VERIFIED := true }) = 0x08 := by decide
theorem test_port_soft_reset :
    (writes [(0x0C, 1), (0x04, 0)] State.reset).S = ⟨1, 0, 0, 0⟩ ∧
    (writes [(0x0C, 1), (0x04, 1)] State.reset).S = ⟨0, 0, 0, 0⟩ := by decide

/-- V9 and V10 with one row in the store: gated while the flag is 0. -/
theorem test_window :
    let m : Memory := ⟨⟨0, [(145, 0x20000#256)]⟩, .unwritten, .unwritten⟩
    windowRead 0x244 { State.reset with mem := m } = 0 ∧
    windowRead 0x244 { State.reset with mem := m, T_VALID := true } = 0x20000 ∧
    windowRead 0xC00 { State.reset with mem := m, T_VALID := true } = 0 := by decide

/-- 20_memory.md R53: byte 1 of a word is bits 15:8. -/
theorem test_bus_little_endian :
    (after State.reset (perform (.busWrite 0x60 [0x88, 0x77, 0x66, 0x55, 0x44, 0x33, 0x22, 0x11]) State.reset)).S.w0
      = 0x1122334455667788 := by decide

/-! ## Gauss-Jordan elimination, spec/95_test_vectors.md section 3, "small cases" -/

/-- The zero matrix. -/
def zeros : Matrix := (List.range 256).map (fun _ => 0)

theorem length_zeros : zeros.length = 256 := by rw [zeros, List.length_map, List.length_range]

theorem rowOf_zeros (r : Nat) (h : r < 256) : rowOf zeros r = 0 := by
  rw [rowOf, List.getD_eq_getElem _ _ (by rw [length_zeros]; exact h)]
  simp only [zeros, List.getElem_map]

theorem gaussJordan_zeros : gaussJordan zeros = .fail 0 := by
  have hr : List.range 256 = 0 :: (List.range 255).map Nat.succ := List.range_succ_eq_map
  rw [gaussJordan, hr]
  apply gaussJordanLoop_fail
  rw [findPivot_none]
  intro q _ hq
  rw [pairAt_zip zeros identity q (by rw [length_zeros]; exact hq) (by rw [length_identity]; exact hq), rowOf_zeros q hq]
  exact BitVec.getLsbD_zero

theorem pairAt_identity (r : Nat) (h : r < 256) :
    pairAt (identity.zip identity) r = (basisRow r, basisRow r) := by
  rw [pairAt_zip _ _ _ (by rw [length_identity]; exact h) (by rw [length_identity]; exact h), rowOf_identity r h]

theorem gaussJordanLoop_identity (cs : List Nat) (h : ∀ c ∈ cs, c < 256) :
    gaussJordanLoop cs (identity.zip identity) = .ok identity := by
  have hlen : (identity.zip identity).length = 256 := by simp
  induction cs with
  | nil =>
    simp only [gaussJordanLoop]
    rw [List.map_snd_zip (by simp)]
  | cons c cs ih =>
    have hc : c < 256 := h c List.mem_cons_self
    have hp : findPivot (identity.zip identity) c = some c := by
      cases hf : findPivot (identity.zip identity) c with
      | none =>
        have := (findPivot_none _ _).mp hf c (Nat.le_refl c) hc
        rw [pairAt_identity c hc, getLsbD_basisRow] at this
        simp [hc] at this
      | some p =>
        obtain ⟨h1, h2, h3, _⟩ := findPivot_some _ _ _ hf
        rw [pairAt_identity p h2, getLsbD_basisRow] at h3
        simp at h3
        rw [h3.2]
    have hs : swapRows (identity.zip identity) c c = identity.zip identity := by
      apply augmented_ext _ _ (by rw [length_swapRows])
      intro r _
      rw [pairAt_swapRows _ _ _ _ (by omega) (by omega)]
      split
      · next h => rw [h]
      · rfl
    have he : eliminate c (pairAt (identity.zip identity) c) 0 (identity.zip identity) = identity.zip identity := by
      apply augmented_ext _ _ (by rw [length_eliminate])
      intro i hi
      have hi' : i < 256 := by omega
      rw [pairAt_eliminate _ _ _ _ _ hi, if_neg]
      rw [pairAt_identity i hi', getLsbD_basisRow]
      simp only [Bool.and_eq_true, decide_eq_true_eq]
      omega
    rw [gaussJordanLoop_cons c c cs _ hp, hs, he]
    exact ih (fun c' hc' => h c' (List.mem_cons_of_mem _ hc'))

theorem gaussJordan_identity : gaussJordan identity = .ok identity :=
  gaussJordanLoop_identity _ (fun _ hc => List.mem_range.mp hc)

/-- A state with the given flags whose stores `TS`, `KS`, `KIS` hold the three matrices. -/
def holding (t k ki v : Bool) (ts ks kis : Matrix) : State :=
  { State.reset with
    T_VALID := t, K_VALID := k, KI_VALID := ki, VERIFIED := v
    mem := ⟨writeRows .unwritten ts, writeRows .unwritten ks, writeRows .unwritten kis⟩ }

theorem readMatrix_written (m : StoreId) (M : Matrix) (s : State) (hM : M.length = 256)
    (h : storeOf s.mem m = writeRows .unwritten M) : readMatrix m s = M := by
  apply List.ext_getElem
  · rw [length_readMatrix, hM]
  · intro r h1 h2
    have hr : r < 256 := by omega
    have hm : memRead m r s = rowOf M r := by
      rw [memRead, h, writeRows, readRow_foldl_writeRow, if_pos (List.mem_range.mpr hr)]
    have hR := rowOf_readMatrix m s r hr
    rw [hm, rowOf, rowOf, List.getD_eq_getElem _ _ h1, List.getD_eq_getElem _ _ h2] at hR
    exact hR

theorem readMatrix_TS_holding (t k ki v : Bool) (ts ks kis : Matrix) (h : ts.length = 256) :
    readMatrix .TS (holding t k ki v ts ks kis) = ts := by
  apply readMatrix_written .TS ts _ h
  simp only [holding, storeOf]

theorem readMatrix_KS_holding (t k ki v : Bool) (ts ks kis : Matrix) (h : ks.length = 256) :
    readMatrix .KS (holding t k ki v ts ks kis) = ks := by
  apply readMatrix_written .KS ks _ h
  simp only [holding, storeOf]

theorem readMatrix_KIS_holding (t k ki v : Bool) (ts ks kis : Matrix) (h : kis.length = 256) :
    readMatrix .KIS (holding t k ki v ts ks kis) = kis := by
  apply readMatrix_written .KIS kis _ h
  simp only [holding, storeOf]

/-- Stores `TS`, `KS` valid, `KS` all zero: INVK raises Singular. -/
abbrev singularState : State := holding true true false false identity zeros identity

theorem singularState_elimination : gaussJordan (readMatrix .KS singularState) = .fail 0 := by
  rw [readMatrix_KS_holding _ _ _ _ _ _ _ length_zeros]; exact gaussJordan_zeros

/-- Stores `TS`, `KS` valid, `KS` the identity: INVK succeeds. -/
abbrev invertibleState : State := holding true true false false identity identity zeros

theorem invertibleState_elimination : gaussJordan (readMatrix .KS invertibleState) = .ok identity := by
  rw [readMatrix_KS_holding _ _ _ _ _ _ _ length_identity]; exact gaussJordan_identity

theorem test_invK_singular :
    ∃ u, exec .invK singularState = .next u ∧ u.KI_VALID = false ∧ statusWord u = 0x63 ∧ u.ERRINFO = 0 := by
  refine ⟨stageState (doInvK (ensureK singularState)), rfl, ?_⟩
  rw [ensureK_valid _ rfl rfl, doInvK_fail _ 0 singularState_elimination]
  exact ⟨rfl, rfl, rfl⟩

theorem test_invK_succeeds :
    ∃ u, exec .invK invertibleState = .next u ∧ statusWord u = 0x07 ∧ readMatrix .KIS u = identity := by
  refine ⟨stageState (doInvK (ensureK invertibleState)), rfl, ?_⟩
  rw [ensureK_valid _ rfl rfl, doInvK_ok _ identity invertibleState_elimination, stageState_done]
  exact ⟨rfl, readMatrix_of_matrix .KIS identity invertibleState.mem _ rfl length_identity⟩

/-- MVMUL.KI of a state whose `KS` is singular leaves `V`. -/
theorem test_mvmulKI_singular : ∃ u, exec .mvmulKI singularState = .next u ∧ statusWord u = 0x63 ∧ u.V = 0 := by
  refine ⟨stageState (andThen (ensureKI singularState) (fun s => .done (multiplyV .KIS s))), rfl, ?_⟩
  rcases ensureKI_cases singularState with ⟨h, _⟩ | ⟨_, h⟩
  · rw [ensureK_valid _ rfl rfl] at h; exact absurd h Bool.false_ne_true
  rw [h, ensureK_valid _ rfl rfl, doInvK_fail _ 0 singularState_elimination]
  exact ⟨rfl, rfl⟩

/-! ### Verification -/

theorem dot_zero (v : Row) : dot 0 v = false := by
  have h : ∀ l : List Nat, l.foldl (fun acc c => acc ^^ ((0 : Row).getLsbD c && v.getLsbD c)) false = false := by
    intro l
    induction l with
    | nil => rfl
    | cons c l ih =>
      have h0 : (0 : Row).getLsbD c = false := BitVec.getLsbD_zero
      rw [List.foldl_cons, h0]
      exact ih
  rw [dot, h]

theorem matVec_zeros (v : Row) : matVec zeros v = 0 := by
  apply BitVec.eq_of_getLsbD_eq
  intro r hr
  rw [getLsbD_matVec _ _ r length_zeros hr, rowOf_zeros r hr, dot_zero]
  exact BitVec.getLsbD_zero.symm

theorem powVec_identity (n : Row) : powVec identity n = basisRow 0 := by
  have h : ∀ (len : Nat) (l : List Nat),
      l.foldl (powStep n len) (basisRow 0, identity) = (basisRow 0, identity) := by
    intro len l
    induction l with
    | nil => rfl
    | cons i l ih =>
      have hs : powStep n len (basisRow 0, identity) i = (basisRow 0, identity) := by
        rw [powStep, matVec_identity, matMul_identity_left _ length_identity, ite_self, ite_self]
      rw [List.foldl_cons, hs, ih]
  rw [powVec, h, ite_self]

/-- Store `KIS` all zero: every constant is zero, so the first comparison fails. -/
abbrev firstDiffers : State := holding true true true false identity identity zeros

theorem firstDiffers_jump (n : Row) : storedJump firstDiffers n = zero4 := by
  rw [storedJump, jumpConstant, readMatrix_KIS_holding _ _ _ _ _ _ _ length_zeros, matVec_zeros]
  rfl

/-- Store `TS` the identity and column 0 of `KIS` the reference constant for 2^128: only the second comparison fails. -/
abbrev secondDiffers : State :=
  holding true true true false identity identity (ofColumns [encodeState Config.ref128])

theorem secondDiffers_jump (n : Row) : storedJump secondDiffers n = Config.ref128 := by
  rw [storedJump, jumpConstant,
    readMatrix_KIS_holding _ _ _ _ _ _ _ (length_ofColumns _),
    readMatrix_TS_holding _ _ _ _ _ _ _ length_identity, powVec_identity,
    matVec_basisRow _ _ (length_ofColumns _) (by decide), columnOf_ofColumns _ _ (by decide)]
  decide

theorem verify_valid (s : State) (ht : s.T_VALID = true) (hk : s.K_VALID = true) (hki : s.KI_VALID = true) :
    exec .verify s = .next (stageState (doVerify s)) := by
  have h : exec .verify s = .next (stageState (andThen (ensureKI s) doVerify)) := rfl
  rw [h, ensureKI_valid s ht hk hki, andThen_done]

theorem test_verify_first_differs :
    ∃ u, exec .verify firstDiffers = .next u ∧ u.VERIFIED = false ∧ statusWord u = 0x67 ∧ u.ERRINFO = 0 := by
  rw [verify_valid _ rfl rfl rfl]
  refine ⟨_, rfl, ?_⟩
  rcases doVerify_cases firstDiffers with ⟨_, h⟩ | ⟨h, _⟩ | ⟨h, _⟩
  · rw [h]; exact ⟨rfl, rfl, rfl⟩
  · rw [firstDiffers_jump] at h; exact absurd h (by decide)
  · rw [firstDiffers_jump] at h; exact absurd h (by decide)

theorem test_verify_second_differs :
    ∃ u, exec .verify secondDiffers = .next u ∧ u.VERIFIED = false ∧ statusWord u = 0x67 ∧ u.ERRINFO = 1 := by
  rw [verify_valid _ rfl rfl rfl]
  refine ⟨_, rfl, ?_⟩
  rcases doVerify_cases secondDiffers with ⟨h, _⟩ | ⟨_, _, h⟩ | ⟨_, h, _⟩
  · rw [secondDiffers_jump] at h; exact absurd rfl h
  · rw [h]; exact ⟨rfl, rfl, rfl⟩
  · rw [secondDiffers_jump] at h; exact absurd h (by decide)

/-- A verified state: INIT does nothing. -/
abbrev verifiedState : State := holding true true true true identity identity identity

theorem test_init_verified : exec .init verifiedState = .next verifiedState := by
  have h : exec .init verifiedState = .next (stageState (ensureVerified verifiedState)) := rfl
  rw [h, ensureVerified_valid _ rfl rfl rfl rfl, stageState_done]

theorem test_jumpGen_emits : ∃ t, exec .jumpGen verifiedState = .next t ∧ t.J_VALID = true ∧ t.J = ⟨1, 0, 0, 0⟩ := by
  have h : exec .jumpGen verifiedState = .next (stageState (andThen
      (ensureVerified verifiedState) (fun s => .done (emitJump s)))) := rfl
  rw [h, ensureVerified_valid _ rfl rfl rfl rfl, andThen_done, stageState_done]
  refine ⟨_, rfl, rfl, ?_⟩
  rw [emitJump_J, jumpConstant, readMatrix_KIS_holding _ _ _ _ _ _ _ length_identity, matVec_identity]
  rfl

/-! ## Witnesses: for each statement with hypotheses, a state and operands that meet them all -/

/-- The state after reset with a script and its position. -/
def scripted (script : List HostEvent) (pc : Nat) : State := { State.reset with script := script, pc := pc }

/-- The state after reset with a step count. -/
def counted (n : Row) : State := { State.reset with N := n }

/-- A state as reset leaves it meets the invariant, whatever its registers, its script and its position. -/
theorem inv_fresh (s : State) (hm : s.mem = State.reset.mem) (ht : s.T_VALID = false) (hk : s.K_VALID = false)
    (hki : s.KI_VALID = false) (hv : s.VERIFIED = false) (hj : s.J_VALID = false) (he : s.ERR_CODE = .none)
    (hi : s.ERRINFO = 0) : Inv s where
  canonical := by rw [hm]; exact reset_wf
  chain := by constructor <;> intro h <;> simp_all
  contents := by constructor <;> intro h <;> simp_all
  errInfo := by unfold ErrInfoMeaning; rw [he]; exact hi
  output := by constructor <;> intro h <;> simp_all

theorem ready_counted (n : Row) : Ready (counted n) := ⟨inv_fresh _ rfl rfl rfl rfl rfl rfl rfl rfl, rfl⟩

theorem inv_scripted (script : List HostEvent) (pc : Nat) : Inv (scripted script pc) :=
  inv_fresh _ rfl rfl rfl rfl rfl rfl rfl rfl

theorem witness_Ready : Ready State.reset := ready_counted 0

theorem witness_StepRunsDecodedCommand_first :
    let s := State.reset.withFetchWord 32 0x01
    s.script[s.pc]? = some (.portWrite 0x00#8 0x01#64) ∧ decode ((0x01#64).extractLsb' 0 32) = .ok .step ∧
    s.ERR_CODE = .none := by decide

theorem witness_StepRunsDecodedCommand_highHalfIgnored :
    let s := scripted [.rstN, .portWrite 0x00#8 0xffffffff00000030#64] 1
    s.script[s.pc]? = some (.portWrite 0x00#8 0xffffffff00000030#64) ∧
    decode ((0xffffffff00000030#64).extractLsb' 0 32) = .ok .jumpGen ∧ s.ERR_CODE = .none := by decide

theorem witness_StepAdvancesPosition_portRead : ∃ t, step (scripted [.portRead 0x18#8] 0) = .next t := ⟨_, rfl⟩
theorem witness_StepAdvancesPosition_portWrite : ∃ t, step (scripted [.portWrite 0x0C#8 7] 0) = .next t := ⟨_, rfl⟩
theorem witness_StepAdvancesPosition_rstN : ∃ t, step (scripted [.rstN] 0) = .next t := ⟨_, rfl⟩
theorem witness_StepAdvancesPosition_busRead : ∃ t, step (scripted [.busRead 2040 8] 0) = .next t := ⟨_, rfl⟩
theorem witness_StepAdvancesPosition_busWrite :
    ∃ t, step (scripted [.busWrite 0x60 [1, 0, 0, 0, 0, 0, 0, 0]] 0) = .next t := ⟨_, rfl⟩
theorem witness_StepAdvancesPosition_ended : (scripted [.rstN] 1).script.length ≤ (scripted [.rstN] 1).pc := by decide

theorem witness_EveryScriptRunsToItsEnd :
    let s := scripted [.portWrite 0x00#8 0x320, .rstN, .busRead 2040 8] 1
    (∀ e ∈ s.script, e.wf = true) ∧ s.pc + 2 ≤ s.script.length ∧ s.pc + 2 = s.script.length := by decide

theorem witness_Setn_zero :
    (scripted (expandLine (.setN 0)) 0).script = expandLine (.setN 0) ∧ (scripted (expandLine (.setN 0)) 0).pc = 0 :=
  ⟨rfl, rfl⟩
theorem witness_Setn_largest :
    (scripted (expandLine (.setN (BitVec.allOnes 256))) 0).script = expandLine (.setN (BitVec.allOnes 256)) ∧
    (scripted (expandLine (.setN (BitVec.allOnes 256))) 0).pc = 0 := ⟨rfl, rfl⟩
theorem witness_Getrow_T :
    let s := { scripted (expandLine (.getRow .t 0)) 0 with T_VALID := true }
    storeValid .TS s = true ∧ s.script = expandLine (.getRow .t 0) ∧ s.pc = 0 := ⟨rfl, rfl, rfl⟩
theorem witness_Getrow_K :
    let s := { scripted (expandLine (.getRow .k 255)) 0 with K_VALID := true }
    storeValid .KS s = true ∧ s.script = expandLine (.getRow .k 255) ∧ s.pc = 0 := ⟨rfl, rfl, rfl⟩
theorem witness_Getrow_KI :
    let s := { scripted (expandLine (.getRow .ki 255)) 0 with KI_VALID := true }
    storeValid .KIS s = true ∧ s.script = expandLine (.getRow .ki 255) ∧ s.pc = 0 := ⟨rfl, rfl, rfl⟩

theorem witness_PortReadReturnsRegisters_reserved : 0x20 ≤ (0x20#8).toNat ∧ 0x20 ≤ (0xFF#8).toNat := by decide

/-- Each register group has the reset value or the written value at its first and its last index, and the index past the
last one is reserved. -/
theorem witness_ports_boundaries :
    regOfIndex 0x07 = some .mdata ∧ regOfIndex 0x08 = some (.n 0) ∧ regOfIndex 0x0B = some (.n 3) ∧
    regOfIndex 0x0C = some (.s 0) ∧ regOfIndex 0x17 = some (.j 3) ∧ regOfIndex 0x18 = some (.ref128 0) ∧
    regOfIndex 0x1F = some (.ref192 3) ∧ regOfIndex 0x20 = none ∧ regOfIndex 0xFF = none := by decide

theorem witness_PortWriteStoresRegisters_ignored :
    ([0x01#8, 0x02#8, 0x03#8, 0x07#8, 0x18#8, 0xFF#8].all (fun idx =>
      decide (idx.toNat = 0x01 ∨ idx.toNat = 0x02 ∨ idx.toNat = 0x03 ∨ idx.toNat = 0x07 ∨ 0x18 ≤ idx.toNat))) = true := by
  decide

theorem witness_ReservedLocations :
    (5#64).getLsbD 0 = (1#64).getLsbD 0 ∧ (0x1fff#64).extractLsb' 0 12 = (0xfff#64).extractLsb' 0 12 ∧
    0x18 ≤ (0x1F#8).toNat ∧ (0x1F#8).toNat ≤ 0x1F ∧ 0x20 ≤ (0x20#8).toNat := by decide

theorem witness_WrittenWordReadsBack :
    0x08 ≤ (0x08#8).toNat ∧ (0x08#8).toNat ≤ 0x17 ∧ 0x08 ≤ (0x17#8).toNat ∧ (0x17#8).toNat ≤ 0x17 ∧ (0x17#8) ≠ 0x08#8 := by
  decide

theorem witness_RunCommandOrder_cleared :
    let s : State := { State.reset with ERR_CODE := .illegalCommand, ERRINFO := 4 }
    s.ERR_CODE ≠ .none ∧ (0xff0000003F#64).extractLsb' 0 32 = 0x0000003F#32 := by decide

theorem witness_Wrapper_defined : ([0, 0, 0, 0, 0, 0, 0, 0] : List Byte).length = 8 := rfl
theorem witness_Wrapper_misaligned :
    (4 % 8 ≠ 0 ∧ ([0, 0, 0, 0, 0, 0, 0, 0] : List Byte).length = 8) ∧ (4 ≠ 8 ∧ ([0, 0, 0, 0] : List Byte).length = 4) := by
  decide
theorem witness_Wrapper_outside : 2048 ≤ 2048 ∧ 2048 % 8 = 0 := by decide

theorem witness_SoftwareReset : (1#64).getLsbD 0 = true ∧ (0xfffffffffffffffe#64).getLsbD 0 = false := by decide

theorem witness_CodecRoundTrip :
    ∃ t u, exec .enc { State.reset with S := s1234 } = .next t ∧ exec .dec t = .next u := ⟨_, _, rfl, rfl⟩
theorem witness_CodecRoundTrip_back :
    ∃ t u, exec .dec { State.reset with V := basisRow 255 } = .next t ∧ exec .enc t = .next u := ⟨_, _, rfl, rfl⟩

theorem witness_ProductsAreXorsOfAnds : tMat.length = 256 ∧ identity.length = 256 := ⟨length_tMat, length_identity⟩

theorem witness_BuildK_flags : State.reset.T_VALID = false ∧ invertibleState.T_VALID = true ∧
    ∃ u, exec .buildT State.reset = .next u := ⟨rfl, rfl, _, rfl⟩

theorem witness_Mvmul_missing : State.reset.T_VALID = false ∧ State.reset.K_VALID = false ∧
    (∃ u, exec .buildT State.reset = .next u) ∧ ∃ u, exec .buildK State.reset = .next u := ⟨rfl, rfl, ⟨_, rfl⟩, _, rfl⟩
theorem witness_Mvmul_valid :
    verifiedState.T_VALID = true ∧ verifiedState.K_VALID = true ∧ verifiedState.KI_VALID = true := ⟨rfl, rfl, rfl⟩
/-- MVMUL.KI with the inverse missing: the inversion succeeds in one state and fails in the other. -/
theorem witness_MvmulKI_missing :
    (∃ u, exec .invK invertibleState = .next u ∧ u.KI_VALID = true) ∧
    (∃ u, exec .invK singularState = .next u ∧ u.KI_VALID = false) := by
  refine ⟨⟨stageState (doInvK (ensureK invertibleState)), rfl, ?_⟩, ⟨stageState (doInvK (ensureK singularState)), rfl, ?_⟩⟩
  · rw [ensureK_valid _ rfl rfl, doInvK_ok _ identity invertibleState_elimination]; rfl
  · rw [ensureK_valid _ rfl rfl, doInvK_fail _ 0 singularState_elimination]; rfl

theorem witness_InvK_ok : invertibleState.T_VALID = true ∧ invertibleState.K_VALID = true ∧
    gaussJordan (readMatrix .KS invertibleState) = .ok identity := ⟨rfl, rfl, invertibleState_elimination⟩
theorem witness_InvK_fail : singularState.T_VALID = true ∧ singularState.K_VALID = true ∧
    gaussJordan (readMatrix .KS singularState) = .fail 0 := ⟨rfl, rfl, singularState_elimination⟩
theorem witness_InvK_missing : State.reset.K_VALID = false ∧ ∃ u, exec .buildK State.reset = .next u := ⟨rfl, _, rfl⟩

theorem witness_Singular : singularState.KI_VALID = false ∧ singularState.NEG = false ∧
    ∃ u, exec .invK singularState = .next u ∧ u.KI_VALID = false := ⟨rfl, rfl, witness_MvmulKI_missing.2⟩

theorem witness_GaussJordan_ok : identity.length = 256 ∧ gaussJordan identity = .ok identity :=
  ⟨length_identity, gaussJordan_identity⟩
theorem witness_GaussJordan_fail : zeros.length = 256 ∧ gaussJordan zeros = .fail 0 := ⟨length_zeros, gaussJordan_zeros⟩

theorem witness_PowVec : tMat.length = 256 := length_tMat

/-- The shift: column `c` is basis vector `c + 1`, and column 255 is zero. -/
def shiftMatrix : Matrix := ofColumns ((List.range 256).map (fun c => basisRow (c + 1)))

theorem krylov_shiftMatrix (n c : Nat) (h : c + n ≤ 256) :
    krylov shiftMatrix n (basisRow c) = (List.range' c n).map basisRow := by
  induction n generalizing c with
  | zero => rfl
  | succ n ih =>
    have hc : c < 256 := by omega
    have hcol : ((List.range 256).map (fun c => basisRow (c + 1))).getD c 0 = basisRow (c + 1) := by simp [List.getD, hc]
    rw [krylov, shiftMatrix, matVec_basisRow _ _ (length_ofColumns _) hc, columnOf_ofColumns _ _ hc, hcol,
      ← shiftMatrix, ih (c + 1) (by omega)]
    rfl

theorem witness_JumpCoefficients :
    shiftMatrix.length = 256 ∧ identity.length = 256 ∧ matMul (krylovMatrix shiftMatrix) identity = identity := by
  refine ⟨length_ofColumns _, length_identity, ?_⟩
  have h : krylov shiftMatrix 256 (basisRow 0) = identity := by
    rw [krylov_shiftMatrix 256 0 (Nat.le_refl _), ← List.range_eq_range', identity]
  rw [krylovMatrix, h, ofColumns_identity, matMul_identity_left _ length_identity]

theorem witness_SmallJumpConstants_zero :
    Ready (counted 0) ∧ (counted 0).NEG = false ∧ (counted 0).N.toNat ≤ 255 ∧ (counted 0).N = 0 :=
  ⟨ready_counted 0, rfl, by decide, rfl⟩
theorem witness_SmallJumpConstants_largest :
    Ready (counted 255) ∧ (counted 255).NEG = false ∧ (counted 255).N.toNat ≤ 255 :=
  ⟨ready_counted 255, rfl, by decide⟩

theorem witness_KnownAnswers_128 : Ready (counted (basisRow 128)) ∧ (counted (basisRow 128)).NEG = false ∧
    (counted (basisRow 128)).N.toNat = 2 ^ 128 := ⟨ready_counted _, rfl, by decide⟩
theorem witness_KnownAnswers_192 : Ready (counted (basisRow 192)) ∧ (counted (basisRow 192)).NEG = false ∧
    (counted (basisRow 192)).N.toNat = 2 ^ 192 := ⟨ready_counted _, rfl, by decide⟩

theorem witness_DerivedConstant_largest :
    Ready (counted (BitVec.allOnes 256)) ∧ (counted (BitVec.allOnes 256)).NEG = false := ⟨ready_counted _, rfl⟩

theorem witness_JumpsCompose : Ready (counted 1000) ∧ Ready (counted 1048576) ∧ Ready (counted 1049576) ∧
    (counted 1000).N.toNat + (counted 1048576).N.toNat = (counted 1049576).N.toNat :=
  ⟨ready_counted _, ready_counted _, ready_counted _, by decide⟩
theorem witness_JumpsCompose_boundary :
    (counted 0).N.toNat + (counted (BitVec.allOnes 256)).N.toNat = (counted (BitVec.allOnes 256)).N.toNat ∧
    (counted 1).N.toNat + (counted (BitVec.allOnes 256 - 1)).N.toNat = (counted (BitVec.allOnes 256)).N.toNat := by
  decide

theorem witness_JumpGen_negative : ({ State.reset with NEG := true } : State).NEG = true := rfl
theorem witness_JumpGen_verified : verifiedState.NEG = false ∧ verifiedState.T_VALID = true ∧
    verifiedState.K_VALID = true ∧ verifiedState.KI_VALID = true ∧ verifiedState.VERIFIED = true ∧
    ∃ u, exec .init verifiedState = .next u ∧ u.VERIFIED = true :=
  ⟨rfl, rfl, rfl, rfl, rfl, verifiedState, test_init_verified, rfl⟩

/-- INIT of a state with the three stores valid is VERIFY. -/
theorem witness_JumpGen_mismatch : firstDiffers.NEG = false ∧
    ∃ u, exec .init firstDiffers = .next u ∧ u.VERIFIED = false := by
  refine ⟨rfl, stageState (ensureVerified firstDiffers), rfl, ?_⟩
  have hv : firstDiffers.VERIFIED = false := rfl
  rw [ensureVerified_done _ _ (ensureKI_valid firstDiffers rfl rfl rfl), hv, if_neg Bool.false_ne_true]
  rcases doVerify_cases firstDiffers with ⟨_, h⟩ | ⟨h, _⟩ | ⟨h, _⟩
  · rw [h]; rfl
  · rw [firstDiffers_jump] at h; exact absurd h (by decide)
  · rw [firstDiffers_jump] at h; exact absurd h (by decide)

theorem witness_Verify_valid : secondDiffers.T_VALID = true ∧ secondDiffers.K_VALID = true ∧
    secondDiffers.KI_VALID = true := ⟨rfl, rfl, rfl⟩
theorem witness_Verify_missing : State.reset.KI_VALID = false ∧ ∃ u, exec .invK State.reset = .next u := ⟨rfl, _, rfl⟩

theorem witness_Mismatch_first : firstDiffers.T_VALID = true ∧ firstDiffers.K_VALID = true ∧
    firstDiffers.KI_VALID = true ∧ firstDiffers.VERIFIED = false ∧ firstDiffers.NEG = false ∧
    storedJump firstDiffers (basisRow 128) ≠ Config.ref128 := by
  refine ⟨rfl, rfl, rfl, rfl, rfl, ?_⟩
  rw [firstDiffers_jump]
  decide
theorem witness_Mismatch_second : secondDiffers.T_VALID = true ∧ secondDiffers.K_VALID = true ∧
    secondDiffers.KI_VALID = true ∧ secondDiffers.VERIFIED = false ∧ secondDiffers.NEG = false ∧
    storedJump secondDiffers (basisRow 128) = Config.ref128 ∧
    storedJump secondDiffers (basisRow 192) ≠ Config.ref192 := by
  refine ⟨rfl, rfl, rfl, rfl, rfl, secondDiffers_jump _, ?_⟩
  rw [secondDiffers_jump]
  decide

theorem witness_Init_clauses :
    (verifiedState.T_VALID = true ∧ verifiedState.K_VALID = true ∧ verifiedState.KI_VALID = true ∧
      verifiedState.VERIFIED = true) ∧
    (firstDiffers.T_VALID = true ∧ firstDiffers.K_VALID = true ∧ firstDiffers.KI_VALID = true ∧
      firstDiffers.VERIFIED = false) ∧
    (singularState.KI_VALID = false ∧ ∃ u, exec .invK singularState = .next u) ∧
    (State.reset.K_VALID = false ∧ ∃ u, exec .buildK State.reset = .next u) ∧
    (State.reset.T_VALID = false ∧ ∃ u, exec .buildT State.reset = .next u) :=
  ⟨⟨rfl, rfl, rfl, rfl⟩, ⟨rfl, rfl, rfl, rfl⟩, ⟨rfl, _, rfl⟩, ⟨rfl, _, rfl⟩, rfl, _, rfl⟩

theorem witness_JApply_corners :
    State.reset.J = ⟨0, 0, 0, 0⟩ ∧ State.reset.S = ⟨0, 0, 0, 0⟩ ∧
    ({ State.reset with J := ⟨1, 0, 0, 0⟩ } : State).J = ⟨1, 0, 0, 0⟩ ∧
    ({ State.reset with J := ⟨2, 0, 0, 0⟩ } : State).J = ⟨2, 0, 0, 0⟩ := ⟨rfl, rfl, rfl, rfl⟩

theorem witness_IllegalWord : State.reset.ERR_CODE = .none ∧
    ∀ i, (0x80000001#64).extractLsb' 0 32 ≠ Sys2Proof.Spec.tableWord i := by
  refine ⟨rfl, fun i => ?_⟩
  cases i <;> decide

theorem witness_RecordedFault_illegal :
    let s : State := { State.reset with ERR_CODE := .illegalCommand, ERRINFO := 4 }
    s.ERR_CODE ≠ .none ∧ ¬ ((0x01#64).extractLsb' 0 32 = 0x0000003F#32 ∧
      (s.ERR_CODE = .invalidInput ∨ s.ERR_CODE = .illegalCommand)) := by decide
theorem witness_RecordedFault_fatal :
    let s : State := { State.reset with ERR_CODE := .singular }
    s.ERR_CODE ≠ .none ∧ ¬ ((0x3F#64).extractLsb' 0 32 = 0x0000003F#32 ∧
      (s.ERR_CODE = .invalidInput ∨ s.ERR_CODE = .illegalCommand)) := by decide
theorem witness_RecordedFault_indices :
    (0x05#8) ≠ 0x00#8 ∧ (0x05#8) ≠ 0x04#8 ∧ (0x05#8) ≠ 0x01#8 ∧ (0x05#8) ≠ 0x02#8 ∧ (0x05#8) ≠ 0x03#8 := by decide

/-- Each fault is recorded in some state, by a command other than CLRERR. -/
theorem witness_FaultsComeOnlyFromTheirCauses :
    (∃ t, exec .jumpGen { State.reset with NEG := true } = .next t ∧ t.ERR_CODE = .invalidInput) ∧
    (∃ t, exec .invK singularState = .next t ∧ t.ERR_CODE = .singular) ∧
    (∃ t, exec .verify firstDiffers = .next t ∧ t.ERR_CODE = .verifyMismatch) := by
  refine ⟨⟨_, rfl, rfl⟩, ⟨stageState (doInvK (ensureK singularState)), rfl, ?_⟩, ?_⟩
  · rw [ensureK_valid _ rfl rfl, doInvK_fail _ 0 singularState_elimination]; rfl
  · rw [verify_valid _ rfl rfl rfl]
    refine ⟨_, rfl, ?_⟩
    rcases doVerify_cases firstDiffers with ⟨_, h⟩ | ⟨h, _⟩ | ⟨h, _⟩
    · rw [h]; rfl
    · rw [firstDiffers_jump] at h; exact absurd h (by decide)
    · rw [firstDiffers_jump] at h; exact absurd h (by decide)

theorem witness_FatalFaultHoldsUntilReset :
    let s : State := { scripted [.portWrite 0x00#8 0x3F] 0 with ERR_CODE := .singular, ERRINFO := 255 }
    isFatal s.ERR_CODE = true ∧ s.script[s.pc]? = some (.portWrite 0x00#8 0x3F) ∧
    resetsCore (.portWrite 0x00#8 0x3F) = false ∧ ∃ t, step s = .next t := ⟨rfl, rfl, rfl, _, rfl⟩
theorem witness_FatalFault_ctrlBitZero :
    let s : State := { scripted [.portWrite 0x04#8 0xfffffffffffffffe] 0 with ERR_CODE := .verifyMismatch, ERRINFO := 1 }
    isFatal s.ERR_CODE = true ∧ s.script[s.pc]? = some (.portWrite 0x04#8 0xfffffffffffffffe) ∧
    resetsCore (.portWrite 0x04#8 0xfffffffffffffffe) = false ∧ ∃ t, step s = .next t := ⟨rfl, rfl, rfl, _, rfl⟩

theorem witness_FatalFault_cmd :
    let s : State := { scripted [.portWrite 0x00#8 0x01] 0 with S := s1234, ERR_CODE := .verifyMismatch }
    isFatal s.ERR_CODE = true ∧ s.script[s.pc]? = some (.portWrite 0x00#8 0x01) ∧
    resetsCore (.portWrite 0x00#8 0x01) = false ∧ ∃ t, step s = .next t ∧ t.S = s1234 := ⟨rfl, rfl, rfl, _, rfl, rfl⟩
theorem witness_FatalFault_wrapperCmd :
    let e : HostEvent := .busWrite 0 [1, 0, 0, 0, 0, 0, 0, 0]
    let s : State := { scripted [e] 0 with S := s1234, ERR_CODE := .singular }
    isFatal s.ERR_CODE = true ∧ s.script[s.pc]? = some e ∧ resetsCore e = false ∧ busIndex 0 = 0x00#8 ∧
    ∃ t, step s = .next t ∧ t.S = s1234 := ⟨rfl, rfl, rfl, rfl, _, rfl, rfl⟩

theorem witness_CommandsTouch_jumpGen :
    (∃ t, exec .jumpGen verifiedState = .next t ∧ t.J_VALID = true) ∧
    (∃ t, exec .jumpGen { State.reset with NEG := true } = .next t ∧ t.J_VALID = false) := by
  obtain ⟨t, h, hj, _⟩ := test_jumpGen_emits
  exact ⟨⟨t, h, hj⟩, _, rfl, rfl⟩

theorem witness_Flags_port :
    (∃ t, portWrite 0x14#8 5 State.reset = .next t) ∧ (∃ t, portWrite 0x17#8 5 State.reset = .next t) ∧
    (∃ t, portWrite 0x05#8 1 State.reset = .next t) ∧ (0x14#8) ≠ 0x00#8 ∧ (0x14#8) ≠ 0x04#8 :=
  ⟨⟨_, rfl⟩, ⟨_, rfl⟩, ⟨_, rfl⟩, by decide, by decide⟩

theorem witness_Flags_dropped :
    let s : State := { State.reset with ERR_CODE := .singular }
    s.ERR_CODE ≠ .none ∧ ∃ t, portWrite 0x00#8 0x30 s = .next t := ⟨by decide, _, rfl⟩
theorem witness_Flags_illegal : (∀ i, (0x320#64).extractLsb' 0 32 ≠ Sys2Proof.Spec.tableWord i) ∧
    ∃ t, portWrite 0x00#8 0x320 State.reset = .next t := ⟨fun i => by cases i <;> decide, _, rfl⟩
theorem witness_Flags_reset : (∃ t, perform .rstN verifiedState = .next t) ∧
    (∃ t, portWrite 0x04#8 1 verifiedState = .next t) ∧ ∃ t, portWrite 0x04#8 2 verifiedState = .next t :=
  ⟨⟨_, rfl⟩, ⟨_, rfl⟩, _, rfl⟩
theorem witness_Flags_commands :
    (State.reset.NEG = false ∧ State.reset.KI_VALID = false) ∧ verifiedState.KI_VALID = true ∧
    ({ State.reset with NEG := true } : State).NEG = true := ⟨⟨rfl, rfl⟩, rfl, rfl⟩

theorem witness_Stores_valid : verifiedState.T_VALID = true ∧ verifiedState.K_VALID = true ∧
    verifiedState.KI_VALID = true ∧ (∃ t, perform (.portRead 0x07#8) verifiedState = .next t) := ⟨rfl, rfl, rfl, _, rfl⟩

theorem witness_FlagChain_reset : FlagChain State.reset ∧
    ∃ t, step (scripted [.portWrite 0x00#8 0x30] 0) = .next t := ⟨witness_Ready.inv.chain, _, rfl⟩
theorem witness_FlagChain_all : FlagChain { verifiedState with J_VALID := true } :=
  ⟨fun _ => rfl, fun _ => rfl, fun _ => rfl, fun _ => rfl⟩

theorem witness_StepKeepsInv : Inv (scripted [.portWrite 0x00#8 0x14] 0) ∧ NoFatal (scripted [.portWrite 0x00#8 0x14] 0) ∧
    ∃ t, step (scripted [.portWrite 0x00#8 0x14] 0) = .next t := ⟨inv_scripted _ _, rfl, _, rfl⟩
/-- The invariant also holds where an illegal word is recorded. -/
theorem witness_StepKeepsInv_recorded : Inv { State.reset with ERR_CODE := .illegalCommand, ERRINFO := 0x320 } where
  canonical := reset_wf
  chain := by constructor <;> intro h <;> exact absurd h Bool.false_ne_true
  contents := by constructor <;> intro h <;> exact absurd h Bool.false_ne_true
  errInfo := ⟨0x320#32, rfl, fun i => by cases i <;> decide⟩
  output := by constructor <;> intro h <;> exact absurd h Bool.false_ne_true

/-- Two states that differ in the content of a store whose flag is 0, with another store valid in both. -/
theorem witness_InvalidStoreContent :
    let s : State := { State.reset with T_VALID := true, mem := ⟨⟨0, [(3, 5)]⟩, ⟨0, [(0, 1)]⟩, .unwritten⟩ }
    let t : State := { State.reset with T_VALID := true, mem := ⟨⟨0, [(3, 5)]⟩, ⟨4, [(0, 2)]⟩, .unwritten⟩ }
    SameObservable s t ∧ s ≠ t := by
  refine ⟨⟨rfl, fun m hm r _ => ?_⟩, by decide⟩
  cases m
  · rfl
  · exact absurd hm Bool.false_ne_true
  · exact absurd hm Bool.false_ne_true
theorem witness_InvalidStoreContent_step :
    ∃ s', step { scripted [.portWrite 0x06#8 0x400, .portRead 0x07#8] 1 with MADDR := 0x400 } = .next s' := ⟨_, rfl⟩

end Sys2Proof.Tests
end

/-! # The run: what the host's script, its position and its observation do in a command, an event and a step
(00_scope.md R14) -/
section
namespace Sys2Proof.Machine

/-- The model-level run in a state: the script, its position and what its reads returned (00_scope.md R14). -/
def runOf (s : State) : List HostEvent × Nat × List Observed := (s.script, s.pc, s.obs)

/-- What performing an event appends to the observation, 00_scope.md R14: the value a read returns. -/
def observedBy (e : HostEvent) (s : State) : List Observed :=
  match e with
  | .portRead idx => [.word (portRead idx s)]
  | .busRead offset _ => [.bytes (wordBytes (portRead (busIndex offset) s))]
  | .portWrite _ _ => []
  | .rstN => []
  | .busWrite _ _ => []

/-! ## The operations and the stages keep the run -/

@[simp] theorem runOf_raise (f : ErrCode) (i : Word) (s : State) : runOf (raise f i s) = runOf s := rfl
@[simp] theorem runOf_loseKIS (s : State) : runOf (loseKIS s) = runOf s := rfl
@[simp] theorem runOf_multiplyV (m : StoreId) (s : State) : runOf (multiplyV m s) = runOf s := rfl
@[simp] theorem runOf_emitJump (s : State) : runOf (emitJump s) = runOf s := rfl
@[simp] theorem runOf_resetCore (s : State) : runOf (resetCore s) = runOf s := rfl
@[simp] theorem runOf_doBuildT (s : State) : runOf (doBuildT s) = runOf s := rfl
@[simp] theorem runOf_doBuildK (s : State) : runOf (doBuildK s) = runOf s := rfl
@[simp] theorem runOf_observe (o : Observed) (s : State) :
    runOf (observe o s) = (s.script, s.pc, s.obs ++ [o]) := rfl

@[simp] theorem runOf_clearFault (s : State) : runOf (clearFault s) = runOf s := by
  unfold clearFault
  split <;> rfl

@[simp] theorem runOf_ensureT (s : State) : runOf (ensureT s) = runOf s := by
  rcases ensureT_cases s with ⟨_, h⟩ | ⟨_, h⟩
  · rw [h]
  · rw [h, runOf_doBuildT]

@[simp] theorem runOf_ensureK (s : State) : runOf (ensureK s) = runOf s := by
  rcases ensureK_cases s with ⟨_, h⟩ | ⟨_, h⟩
  · rw [h, runOf_ensureT]
  · rw [h, runOf_doBuildK, runOf_ensureT]

/-- A stage followed by one that keeps the run leaves the run the first stage left. -/
theorem runOf_andThen (x : Stage) (f : State → Stage) (h : ∀ s, runOf (stageState (f s)) = runOf s) :
    runOf (stageState (andThen x f)) = runOf (stageState x) := by
  cases x with
  | done s => exact h s
  | raised s => rfl

@[simp] theorem runOf_doInvK (s : State) : runOf (stageState (doInvK s)) = runOf s := by
  rcases doInvK_cases s with ⟨c, _, h⟩ | ⟨x, _, h⟩
  · rw [h]; rfl
  · rw [h]; rfl

@[simp] theorem runOf_ensureKI (s : State) : runOf (stageState (ensureKI s)) = runOf s := by
  rcases ensureKI_cases s with ⟨_, h⟩ | ⟨_, h⟩
  · rw [h, stageState_done, runOf_ensureK]
  · rw [h, runOf_doInvK, runOf_ensureK]

@[simp] theorem runOf_doVerify (s : State) : runOf (stageState (doVerify s)) = runOf s := by
  rcases doVerify_cases s with ⟨_, h⟩ | ⟨_, _, h⟩ | ⟨_, _, h⟩
  · rw [h]; rfl
  · rw [h]; rfl
  · rw [h]; rfl

@[simp] theorem runOf_ensureVerified (s : State) : runOf (stageState (ensureVerified s)) = runOf s := by
  rw [ensureVerified, runOf_andThen, runOf_ensureKI]
  intro t
  split
  · rfl
  · exact runOf_doVerify t

theorem jumpGenStage_negative (s : State) (h : s.NEG = true) :
    jumpGenStage s = .raised (raise .invalidInput 0 { s with J_VALID := false }) := by
  simp [jumpGenStage, h]

theorem jumpGenStage_nonnegative (s : State) (h : s.NEG = false) :
    jumpGenStage s = andThen (ensureVerified { s with J_VALID := false }) (fun t => .done (emitJump t)) := by
  simp [jumpGenStage, h]

@[simp] theorem runOf_jumpGenStage (s : State) : runOf (stageState (jumpGenStage s)) = runOf s := by
  cases h : s.NEG with
  | true => rw [jumpGenStage_negative s h]; rfl
  | false => rw [jumpGenStage_nonnegative s h, runOf_andThen _ _ (fun _ => rfl), runOf_ensureVerified]; rfl

/-! ## Commands, writes and events -/

/-- No command touches the run, 00_scope.md R14. -/
theorem exec_keeps_run (i : Instr) (s t : State) (h : exec i s = .next t) : runOf t = runOf s := by
  cases i <;> cases h
  case nop => rfl
  case step => rfl
  case enc => rfl
  case dec => rfl
  case buildT => exact runOf_doBuildT s
  case buildK => rw [runOf_doBuildK, runOf_ensureT]
  case invK => rw [runOf_doInvK, runOf_ensureK]
  case verify => rw [runOf_andThen _ _ runOf_doVerify, runOf_ensureKI]
  case init => exact runOf_ensureVerified s
  case mvmulT => rw [runOf_multiplyV, runOf_ensureT]
  case mvmulK => rw [runOf_multiplyV, runOf_ensureK]
  case mvmulKI => rw [runOf_andThen _ _ (fun _ => rfl), runOf_ensureKI]
  case jumpGen => exact runOf_jumpGenStage s
  case jApply => rfl
  case clrErr => exact runOf_clearFault s

theorem runCommand_keeps_run (word : CmdWord) (s t : State) (h : runCommand word s = .next t) :
    runOf t = runOf s := by
  rcases runCommand_cases word s with ⟨_, _, hr⟩ | ⟨_, _, hr⟩ | ⟨_, _, hr⟩ | ⟨_, i, _, hr⟩ <;> rw [hr] at h
  · cases h; exact runOf_clearFault s
  · cases h; rfl
  · cases h; rfl
  · exact exec_keeps_run i s t h

theorem writeReg_keeps_run (r : RegName) (d : Word) (s t : State) (h : writeReg r d s = .next t) :
    runOf t = runOf s := by
  cases r
  case cmd => exact runCommand_keeps_run _ s t h
  case ctrl =>
    cases h
    split
    · exact runOf_resetCore s
    · rfl
  all_goals cases h; rfl

theorem portWrite_keeps_run (idx : PortIndex) (d : Word) (s t : State) (h : portWrite idx d s = .next t) :
    runOf t = runOf s := by
  unfold portWrite at h
  split at h
  · cases h; rfl
  · exact writeReg_keeps_run _ d s t h

/-- An event leaves the script and its position, and appends to the observation what its read returned. -/
theorem runOf_perform (e : HostEvent) (s u : State) (h : perform e s = .next u) :
    runOf u = (s.script, s.pc, s.obs ++ observedBy e s) := by
  have hkept : runOf u = runOf s → runOf u = (s.script, s.pc, s.obs ++ []) := by simp [runOf]
  cases e with
  | portRead idx => cases h; rfl
  | portWrite idx d => exact hkept (portWrite_keeps_run idx d s u h)
  | rstN => cases h; exact hkept (runOf_resetCore s)
  | busRead offset size =>
    obtain ⟨_, _, hk⟩ := busAccess_next _ _ _ _ h
    cases hk
    rfl
  | busWrite offset bytes =>
    obtain ⟨_, _, hk⟩ := busAccess_next _ _ _ _ h
    exact hkept (portWrite_keeps_run _ _ s u hk)

/-! ## The step -/

/-- Settles O4: the step is its event's, and of the run an event changes only the observation. -/
theorem stepAdvancesPositionAndKeepsScript : Obligations.StepAdvancesPositionAndKeepsScript := by
  refine ⟨fun s t h => ?_, fun s h => step_ended s (List.getElem?_eq_none h)⟩
  obtain ⟨e, u, he, hu, rfl⟩ := step_next s t h
  obtain ⟨hscript, hpc, hobs⟩ : u.script = s.script ∧ u.pc = s.pc ∧ u.obs = s.obs ++ observedBy e s := by
    simpa [runOf] using runOf_perform e s u hu
  refine ⟨congrArg (· + 1) hpc, hscript, e, he, ⟨u, hu, rfl⟩, ?_⟩
  cases e with
  | portRead idx => exact hobs
  | busRead offset size => exact hobs
  | portWrite idx d => simpa [observedBy] using hobs
  | rstN => simpa [observedBy] using hobs
  | busWrite offset bytes => simpa [observedBy] using hobs

/-- With no fault recorded, a word that decodes to a command runs its rule, 20_memory.md R57. -/
theorem runCommand_of_decode (word : CmdWord) (i : Instr) (s : State) (he : s.ERR_CODE = .none)
    (hd : decode word = .ok i) : runCommand word s = exec i s := by
  simp [runCommand, he, hd]

/-- Settles O3: the event at the position is the write to `CMD`, and RunCommand finds a command and no fault. -/
theorem stepRunsDecodedCommand : Obligations.StepRunsDecodedCommand := by
  intro s d i hevent hdecode hfault
  have hword : decode (d.setWidth 32) = .ok i := by
    rwa [BitVec.setWidth_eq_extractLsb' (by decide)]
  have hperform : perform (.portWrite 0x00#8 d) s = exec i s := by
    rw [perform, portWrite_cmd, runCommand_of_decode _ i s hfault hword]
  rw [step_event s _ hevent, hperform]
  rfl

end Sys2Proof.Machine
end

/-! # XOR sums and the two products over GF(2) (00_scope.md R10) -/
section
namespace Sys2Proof.Machine

/-! ## XOR sums -/

theorem xorUpTo_succ (n : Nat) (f : Nat → Bool) : xorUpTo (n + 1) f = (xorUpTo n f ^^ f n) := rfl

/-- The first element instead of the last, for recursion along a list. -/
theorem xorUpTo_succ_first (n : Nat) (f : Nat → Bool) :
    xorUpTo (n + 1) f = (f 0 ^^ xorUpTo n (fun i => f (i + 1))) := by
  induction n with
  | zero => simp [xorUpTo]
  | succ n ih => rw [xorUpTo_succ, ih, xorUpTo_succ, Bool.xor_assoc]

theorem xorUpTo_congr (n : Nat) (f g : Nat → Bool) (h : ∀ i < n, f i = g i) : xorUpTo n f = xorUpTo n g := by
  induction n with
  | zero => rfl
  | succ n ih => rw [xorUpTo_succ, xorUpTo_succ, ih (fun i hi => h i (by omega)), h n (by omega)]

theorem xorUpTo_false (n : Nat) : xorUpTo n (fun _ => false) = false := by
  induction n with
  | zero => rfl
  | succ n ih => rw [xorUpTo_succ, ih, Bool.xor_false]

theorem xorUpTo_xor (n : Nat) (f g : Nat → Bool) :
    xorUpTo n (fun i => f i ^^ g i) = (xorUpTo n f ^^ xorUpTo n g) := by
  induction n with
  | zero => rfl
  | succ n ih => simp only [xorUpTo_succ, ih, Bool.xor_assoc, Bool.xor_left_comm]

theorem and_xorUpTo (n : Nat) (b : Bool) (f : Nat → Bool) :
    (b && xorUpTo n f) = xorUpTo n (fun i => b && f i) := by
  cases b with
  | false => simp [xorUpTo_false]
  | true => simp

/-- A double XOR sum does not depend on the order of its two sums. -/
theorem xorUpTo_comm (m n : Nat) (f : Nat → Nat → Bool) :
    xorUpTo m (fun i => xorUpTo n (f i)) = xorUpTo n (fun j => xorUpTo m (fun i => f i j)) := by
  induction m with
  | zero => simp [xorUpTo, xorUpTo_false]
  | succ m ih => simp only [xorUpTo_succ, xorUpTo_xor, ih]

theorem foldl_xor_range (n : Nat) (f : Nat → Bool) :
    (List.range n).foldl (fun acc c => acc ^^ f c) false = xorUpTo n f := by
  induction n with
  | zero => rfl
  | succ n ih => rw [List.range_succ, List.foldl_append, ih]; rfl

/-! ## The products, one element at a time -/

theorem dot_eq_xorUpTo (a b : Row) : dot a b = xorUpTo 256 (fun c => a.getLsbD c && b.getLsbD c) :=
  foldl_xor_range 256 _

theorem getLsbD_matVec_eq_xorUpTo (M : Matrix) (v : Row) (r : Nat) (h : M.length = 256) (hr : r < 256) :
    (matVec M v).getLsbD r = xorUpTo 256 (fun c => entry M r c && v.getLsbD c) := by
  rw [getLsbD_matVec M v r h hr, dot_eq_xorUpTo]
  rfl

theorem entry_cons_succ (b : Row) (bs : Matrix) (k c : Nat) : entry (b :: bs) (k + 1) c = entry bs k c := rfl

/-- Row combination one bit at a time: bit `c` is an XOR down column `c`. -/
theorem getLsbD_combineRows (a : Row) (k0 : Nat) (B : Matrix) (c : Nat) :
    (combineRows a k0 B).getLsbD c = xorUpTo B.length (fun k => a.getLsbD (k0 + k) && entry B k c) := by
  induction B generalizing k0 with
  | nil => exact BitVec.getLsbD_zero
  | cons b bs ih =>
    have hfirst : (if a.getLsbD k0 then b else 0).getLsbD c = (a.getLsbD k0 && entry (b :: bs) 0 c) := by
      cases a.getLsbD k0 <;> simp [entry, rowOf]
    rw [combineRows_cons, BitVec.getLsbD_xor, hfirst, ih, List.length_cons, xorUpTo_succ_first]
    simp only [entry_cons_succ, Nat.add_zero, Nat.add_assoc, Nat.add_comm 1]

theorem entry_matMul (A B : Matrix) (r c : Nat) (hA : A.length = 256) (hB : B.length = 256) (hr : r < 256) :
    entry (matMul A B) r c = xorUpTo 256 (fun k => entry A r k && entry B k c) := by
  rw [entry, rowOf_matMul A B r (by omega), getLsbD_combineRows, hB]
  simp only [Nat.zero_add]
  rfl

/-- The matrix of a product is the composition of the maps: the two XOR sums change places. -/
theorem matVec_matMul (A B : Matrix) (v : Row) (hA : A.length = 256) (hB : B.length = 256) :
    matVec (matMul A B) v = matVec A (matVec B v) := by
  apply BitVec.eq_of_getLsbD_eq
  intro r hr
  have hAB : (matMul A B).length = 256 := by rw [length_matMul, hA]
  calc (matVec (matMul A B) v).getLsbD r
      = xorUpTo 256 (fun c => v.getLsbD c && xorUpTo 256 (fun k => entry A r k && entry B k c)) := by
        rw [getLsbD_matVec_eq_xorUpTo _ v r hAB hr]
        simp only [entry_matMul A B r _ hA hB hr, Bool.and_comm]
    _ = xorUpTo 256 (fun k => xorUpTo 256 (fun c => v.getLsbD c && (entry A r k && entry B k c))) := by
        simp only [and_xorUpTo]
        exact xorUpTo_comm 256 256 _
    _ = xorUpTo 256 (fun k => entry A r k && (matVec B v).getLsbD k) := by
        refine xorUpTo_congr _ _ _ (fun k hk => ?_)
        rw [getLsbD_matVec_eq_xorUpTo B v k hB hk, and_xorUpTo]
        exact xorUpTo_congr _ _ _ (fun c _ => by ac_rfl)
    _ = (matVec A (matVec B v)).getLsbD r := (getLsbD_matVec_eq_xorUpTo A _ r hA hr).symm

/-- Settles O21: the elements of the products, and the composition that follows from them. -/
theorem productsAreXorsOfAnds : Obligations.ProductsAreXorsOfAnds := by
  intro A B v hA hB
  exact ⟨fun r hr => getLsbD_matVec_eq_xorUpTo A v r hA hr, fun r hr c _ => entry_matMul A B r c hA hB hr,
    matVec_matMul A B v hA hB⟩

end Sys2Proof.Machine
end

/-! # What one host event can do to the state, said once (20_memory.md R55 to R57, R61) -/
section
namespace Sys2Proof.Machine

/-- The change a host event makes to the state: nothing, a value observed, a register write, a reset, or what
RunCommand does. -/
inductive Effect (s : State) : State → Prop where
  | same : Effect s s
  | observed (o : Observed) : Effect s (observe o s)
  | wroteS (q : Words4) : Effect s { s with S := q }
  | wroteV (v : Row) : Effect s { s with V := v }
  | wroteN (n : Row) : Effect s { s with N := n }
  | wroteJ (q : Words4) : Effect s { s with J := q, J_VALID := false }
  | wroteNEG (b : Bool) : Effect s { s with NEG := b }
  | wroteMADDR (a : BitVec 12) : Effect s { s with MADDR := a }
  | reset : Effect s (resetCore s)
  | cleared : Effect s (clearFault s)
  | illegal (word : CmdWord) (h : ∀ i, decode word ≠ .ok i) :
    Effect s (raise .illegalCommand (word.setWidth 64) s)
  | command (i : Instr) (t : State) (h : exec i s = .next t) : Effect s t

theorem runCommand_effect (word : CmdWord) (s t : State) (h : runCommand word s = .next t) : Effect s t := by
  rcases runCommand_cases word s with ⟨_, _, hr⟩ | ⟨_, _, hr⟩ | ⟨_, ⟨e, he⟩, hr⟩ | ⟨_, i, _, hr⟩ <;> rw [hr] at h
  · cases h; exact .cleared
  · cases h; exact .same
  · cases h; exact .illegal word (fun i hi => by rw [he] at hi; cases hi)
  · exact .command i t h

theorem writeReg_effect (r : RegName) (d : Word) (s t : State) (h : writeReg r d s = .next t) : Effect s t := by
  cases r
  case cmd => exact runCommand_effect _ s t h
  case ctrl =>
    cases h
    split
    · exact .reset
    · exact .same
  case nctl => cases h; exact .wroteNEG _
  case maddr => cases h; exact .wroteMADDR _
  case n w => cases h; exact .wroteN _
  case s w => cases h; exact .wroteS _
  case v w => cases h; exact .wroteV _
  case j w => cases h; exact .wroteJ _
  all_goals cases h; exact .same

theorem portWrite_effect (idx : PortIndex) (d : Word) (s t : State) (h : portWrite idx d s = .next t) :
    Effect s t := by
  unfold portWrite at h
  split at h
  · cases h; exact .same
  · exact writeReg_effect _ d s t h

theorem perform_effect (e : HostEvent) (s t : State) (h : perform e s = .next t) : Effect s t := by
  cases e with
  | portRead idx => cases h; exact .observed _
  | portWrite idx d => exact portWrite_effect idx d s t h
  | rstN => cases h; exact .reset
  | busRead offset size =>
    obtain ⟨_, _, hk⟩ := busAccess_next _ _ _ _ h
    cases hk
    exact .observed _
  | busWrite offset bytes =>
    obtain ⟨_, _, hk⟩ := busAccess_next _ _ _ _ h
    exact portWrite_effect _ _ s t hk

/-- A predicate that no effect and no advance of the position breaks is kept by every step. -/
theorem step_keeps (P : State → Prop) (heffect : ∀ s t, P s → Effect s t → P t)
    (hpc : ∀ s n, P s → P { s with pc := n }) (s t : State) (hs : P s) (h : step s = .next t) : P t := by
  obtain ⟨e, u, _, hu, rfl⟩ := step_next s t h
  exact hpc u _ (heffect s u hs (perform_effect e s u hu))

end Sys2Proof.Machine
end

/-! # The flags: what each stage and each command makes of them (10_state.md R27 to R29, R43) -/
section
namespace Sys2Proof.Machine

/-! ## The stages as functions of the flags -/

/-- EnsureT, 41_matrix_build.md R108. -/
def FlagValues.ensuredT (f : FlagValues) : FlagValues := { f with T_VALID := true }

/-- EnsureK, 41_matrix_build.md R108. -/
def FlagValues.ensuredK (f : FlagValues) : FlagValues := { f with T_VALID := true, K_VALID := true }

/-- DoInvK, 42_inversion.md R117: `inv` says whether the elimination succeeds. -/
def FlagValues.inverted (inv : Bool) (f : FlagValues) : FlagValues :=
  { f with KI_VALID := inv, VERIFIED := false, J_VALID := false }

/-- EnsureKI, 41_matrix_build.md R108. -/
def FlagValues.ensuredKI (inv : Bool) (f : FlagValues) : FlagValues :=
  if f.KI_VALID then f.ensuredK else f.ensuredK.inverted inv

/-- DoVerify, 43_jump.md R135: `agree` says whether both constants are the reference constants. -/
def FlagValues.checked (agree : Bool) (f : FlagValues) : FlagValues :=
  { f with VERIFIED := agree, J_VALID := f.J_VALID && agree }

/-- VERIFY, 43_jump.md R136: DoVerify runs when EnsureKI did not raise. -/
def FlagValues.afterVerify (inv agree : Bool) (f : FlagValues) : FlagValues :=
  let g := f.ensuredKI inv
  if g.KI_VALID then g.checked agree else g

/-- EnsureVerified, 41_matrix_build.md R108. -/
def FlagValues.ensuredVerified (inv agree : Bool) (f : FlagValues) : FlagValues :=
  let g := f.ensuredKI inv
  if g.KI_VALID && !g.VERIFIED then g.checked agree else g

/-- The end of JUMPGEN, 43_jump.md R131: it is reached exactly with `VERIFIED` set. -/
def FlagValues.emitted (f : FlagValues) : FlagValues := { f with J_VALID := f.VERIFIED }

/-- JUMPGEN, 43_jump.md R131, R132. -/
def FlagValues.jumpGenerated (inv agree : Bool) (f : FlagValues) : FlagValues :=
  if f.NEG then { f with J_VALID := false }
  else (FlagValues.ensuredVerified inv agree { f with J_VALID := false }).emitted

/-- The flags after a command, from the flags before it and what its stages found. -/
def flagsAfter (inv agree : Bool) : Instr → FlagValues → FlagValues
  | .nop, f => f
  | .step, f => f
  | .enc, f => f
  | .dec, f => f
  | .jApply, f => f
  | .clrErr, f => f
  | .buildT, f => f.ensuredT
  | .mvmulT, f => f.ensuredT
  | .buildK, f => f.ensuredK
  | .mvmulK, f => f.ensuredK
  | .invK, f => f.ensuredK.inverted inv
  | .mvmulKI, f => f.ensuredKI inv
  | .verify, f => f.afterVerify inv agree
  | .init, f => f.ensuredVerified inv agree
  | .jumpGen, f => f.jumpGenerated inv agree

section
variable (inv agree : Bool) (f : FlagValues)

theorem FlagValues.ensuredKI_valid (h : f.KI_VALID = true) : f.ensuredKI inv = f.ensuredK := if_pos h

theorem FlagValues.ensuredKI_missing (h : f.KI_VALID = false) : f.ensuredKI inv = f.ensuredK.inverted inv := by
  simp [FlagValues.ensuredKI, h]

/-- An inversion that fails leaves `VERIFIED` cleared, 42_inversion.md R117. -/
theorem FlagValues.ensuredKI_failed (h : (f.ensuredKI inv).KI_VALID = false) :
    (f.ensuredKI inv).VERIFIED = false := by
  cases hf : f.KI_VALID with
  | true => rw [FlagValues.ensuredKI_valid inv f hf] at h; exact absurd (hf.symm.trans h) (by decide)
  | false => rw [FlagValues.ensuredKI_missing inv f hf]; rfl

theorem FlagValues.afterVerify_of_inverse (h : (f.ensuredKI inv).KI_VALID = true) :
    f.afterVerify inv agree = (f.ensuredKI inv).checked agree := if_pos h

theorem FlagValues.afterVerify_of_failure (h : (f.ensuredKI inv).KI_VALID = false) :
    f.afterVerify inv agree = f.ensuredKI inv := by
  simp [FlagValues.afterVerify, h]

theorem FlagValues.ensuredVerified_of_inverse (h : (f.ensuredKI inv).KI_VALID = true)
    (hv : (f.ensuredKI inv).VERIFIED = false) : f.ensuredVerified inv agree = (f.ensuredKI inv).checked agree := by
  simp [FlagValues.ensuredVerified, h, hv]

theorem FlagValues.ensuredVerified_of_verified (hv : (f.ensuredKI inv).VERIFIED = true) :
    f.ensuredVerified inv agree = f.ensuredKI inv := by
  simp [FlagValues.ensuredVerified, hv]

theorem FlagValues.ensuredVerified_of_failure (h : (f.ensuredKI inv).KI_VALID = false) :
    f.ensuredVerified inv agree = f.ensuredKI inv := by
  simp [FlagValues.ensuredVerified, h]

theorem FlagValues.ensuredKI_T_VALID : (f.ensuredKI inv).T_VALID = true := by
  unfold FlagValues.ensuredKI
  split <;> rfl

/-- A derivation is `VERIFIED` only where its stores are valid. -/
theorem FlagValues.ensuredVerified_valid (h : (f.ensuredVerified inv agree).VERIFIED = true) :
    (f.ensuredVerified inv agree).T_VALID = true ∧ (f.ensuredVerified inv agree).KI_VALID = true := by
  have hT := FlagValues.ensuredKI_T_VALID inv f
  cases hKI : (f.ensuredKI inv).KI_VALID with
  | false =>
    rw [FlagValues.ensuredVerified_of_failure inv agree f hKI, FlagValues.ensuredKI_failed inv f hKI] at h
    exact absurd h Bool.false_ne_true
  | true =>
    cases hV : (f.ensuredKI inv).VERIFIED with
    | true => rw [FlagValues.ensuredVerified_of_verified inv agree f hV]; exact ⟨hT, hKI⟩
    | false => rw [FlagValues.ensuredVerified_of_inverse inv agree f hKI hV]; exact ⟨hT, hKI⟩

/-- No stage sets `J_VALID`. -/
theorem FlagValues.ensuredVerified_J_cleared :
    (FlagValues.ensuredVerified inv agree { f with J_VALID := false }).J_VALID = false := by
  simp only [FlagValues.ensuredVerified, FlagValues.ensuredKI]
  split_ifs <;> rfl

theorem FlagValues.jumpGenerated_negative (h : f.NEG = true) :
    f.jumpGenerated inv agree = { f with J_VALID := false } := if_pos h

theorem FlagValues.jumpGenerated_nonnegative (h : f.NEG = false) :
    f.jumpGenerated inv agree = (FlagValues.ensuredVerified inv agree { f with J_VALID := false }).emitted := by
  simp [FlagValues.jumpGenerated, h]

theorem FlagValues.emitted_of_verified (h : f.VERIFIED = true) : f.emitted = { f with J_VALID := true } := by
  rw [FlagValues.emitted, h]

theorem FlagValues.emitted_of_failure (h : f.VERIFIED = false) (hJ : f.J_VALID = false) : f.emitted = f := by
  obtain ⟨T, K, KI, V, J, NEG⟩ := f
  cases h
  cases hJ
  rfl

end

/-! ## What the stages find -/

/-- The elimination of store `KS` succeeds. -/
def inverts (s : State) : Bool :=
  match gaussJordan (readMatrix .KS s) with
  | .ok _ => true
  | .fail _ => false

/-- Both constants from the stores are the reference constants. -/
def agrees (s : State) : Bool :=
  decide (storedJump s (basisRow 128) = Config.ref128 ∧ storedJump s (basisRow 192) = Config.ref192)

theorem inverts_of_ok (s : State) (x : Matrix) (h : gaussJordan (readMatrix .KS s) = .ok x) : inverts s = true := by
  rw [inverts, h]

theorem inverts_of_fail (s : State) (c : Nat) (h : gaussJordan (readMatrix .KS s) = .fail c) : inverts s = false := by
  rw [inverts, h]

theorem inverts_iff (s : State) : inverts s = true ↔ ∃ x, gaussJordan (readMatrix .KS s) = .ok x := by
  cases h : gaussJordan (readMatrix .KS s) with
  | ok x => exact ⟨fun _ => ⟨x, rfl⟩, fun _ => inverts_of_ok s x h⟩
  | fail c => simp [inverts_of_fail s c h]

theorem agrees_iff (s : State) : agrees s = true ↔
    storedJump s (basisRow 128) = Config.ref128 ∧ storedJump s (basisRow 192) = Config.ref192 := by
  rw [agrees, decide_eq_true_iff]

theorem inverts_congr (s t : State) (h : readMatrix .KS t = readMatrix .KS s) : inverts t = inverts s := by
  rw [inverts, inverts, h]

theorem readMatrix_of_mem (m : StoreId) (s t : State) (h : t.mem = s.mem) : readMatrix m t = readMatrix m s :=
  readMatrix_congr _ _ _ (fun r _ => memRead_congr m r t s h)

theorem agrees_of_mem (s t : State) (h : t.mem = s.mem) : agrees t = agrees s := by
  have hjump : ∀ n, storedJump t n = storedJump s n := fun n => by
    rw [storedJump, storedJump, readMatrix_of_mem .TS s t h, readMatrix_of_mem .KIS s t h]
  rw [agrees, agrees, hjump, hjump]

theorem inverts_of_mem (s t : State) (h : t.mem = s.mem) : inverts t = inverts s :=
  inverts_congr s t (readMatrix_of_mem .KS s t h)

/-! ## The stages -/

@[simp] theorem flagsOf_ensureT (s : State) : flagsOf (ensureT s) = (flagsOf s).ensuredT := by
  rcases ensureT_cases s with ⟨h, e⟩ | ⟨_, e⟩
  · rw [e, FlagValues.ensuredT, ← h]; rfl
  · rw [e]; rfl

@[simp] theorem flagsOf_ensureK (s : State) : flagsOf (ensureK s) = (flagsOf s).ensuredK := by
  have hK : (flagsOf s).ensuredK = { flagsOf (ensureT s) with K_VALID := true } := by rw [flagsOf_ensureT]; rfl
  rcases ensureK_cases s with ⟨h, e⟩ | ⟨_, e⟩
  · rw [e, hK, ← h]; rfl
  · rw [e, hK]; rfl

/-- DoInvK writes store `KIS` only. -/
theorem memRead_doInvK (m : StoreId) (r : Nat) (s : State) (h : m ≠ .KIS) :
    memRead m r (stageState (doInvK s)) = memRead m r s := by
  rcases doInvK_cases s with ⟨c, _, e⟩ | ⟨x, _, e⟩
  · rw [e]; exact memRead_loseKIS m r (invStart s) h
  · rw [e]; exact memRead_of_otherMatrix .KIS m x s _ r rfl h

theorem readMatrix_doInvK (m : StoreId) (s : State) (h : m ≠ .KIS) :
    readMatrix m (stageState (doInvK s)) = readMatrix m s :=
  readMatrix_congr _ _ _ (fun r _ => memRead_doInvK m r s h)

theorem flagsOf_doInvK (s : State) :
    flagsOf (stageState (doInvK s)) = (flagsOf s).inverted (inverts (stageState (doInvK s))) := by
  rw [inverts_congr s _ (readMatrix_doInvK .KS s (by decide))]
  rcases doInvK_cases s with ⟨c, hc, e⟩ | ⟨x, hx, e⟩
  · rw [e, inverts_of_fail s c hc]; rfl
  · rw [e, inverts_of_ok s x hx]; rfl

theorem doVerify_first_differs (s : State) (h : storedJump s (basisRow 128) ≠ Config.ref128) :
    doVerify s = .raised (raise .verifyMismatch 0 { s with VERIFIED := false, J_VALID := false }) := by
  rcases doVerify_cases s with ⟨_, e⟩ | ⟨h1, _, _⟩ | ⟨h1, _, _⟩
  · exact e
  · exact absurd h1 h
  · exact absurd h1 h

theorem doVerify_second_differs (s : State) (h1 : storedJump s (basisRow 128) = Config.ref128)
    (h2 : storedJump s (basisRow 192) ≠ Config.ref192) :
    doVerify s = .raised (raise .verifyMismatch 1 { s with VERIFIED := false, J_VALID := false }) := by
  rcases doVerify_cases s with ⟨h, _⟩ | ⟨_, _, e⟩ | ⟨_, h, _⟩
  · exact absurd h1 h
  · exact e
  · exact absurd h h2

theorem doVerify_agrees (s : State) (h1 : storedJump s (basisRow 128) = Config.ref128)
    (h2 : storedJump s (basisRow 192) = Config.ref192) : doVerify s = .done { s with VERIFIED := true } := by
  rcases doVerify_cases s with ⟨h, _⟩ | ⟨_, h, _⟩ | ⟨_, _, e⟩
  · exact absurd h1 h
  · exact absurd h2 h
  · exact e

/-- DoVerify changes no store. -/
theorem doVerify_mem (s : State) : (stageState (doVerify s)).mem = s.mem := by
  rcases doVerify_cases s with ⟨_, e⟩ | ⟨_, _, e⟩ | ⟨_, _, e⟩ <;> rw [e] <;> rfl

theorem flagsOf_doVerify (s : State) :
    flagsOf (stageState (doVerify s)) = (flagsOf s).checked (agrees s) := by
  have hraised : ∀ f i, agrees s = false →
      flagsOf (raise f i { s with VERIFIED := false, J_VALID := false }) = (flagsOf s).checked (agrees s) := by
    intro f i h
    rw [h, FlagValues.checked, Bool.and_false]; rfl
  rcases doVerify_cases s with ⟨h, e⟩ | ⟨_, h, e⟩ | ⟨h1, h2, e⟩ <;> rw [e]
  · exact hraised _ _ (by simp [agrees, h])
  · exact hraised _ _ (by simp [agrees, h])
  · rw [(agrees_iff s).mpr ⟨h1, h2⟩, FlagValues.checked, Bool.and_true]; rfl

theorem stageState_of_split {x : Stage} {u : State} {P Q : Prop} (h : (x = .done u ∧ P) ∨ (x = .raised u ∧ Q)) :
    stageState x = u := by
  rcases h with ⟨rfl, _⟩ | ⟨rfl, _⟩
  · rfl
  · rfl

/-- DoInvK is done exactly with `KI_VALID` set. -/
theorem doInvK_split (s : State) : ∃ u, flagsOf u = (flagsOf s).inverted (inverts u) ∧
    ((doInvK s = .done u ∧ u.KI_VALID = true) ∨ (doInvK s = .raised u ∧ u.KI_VALID = false)) := by
  have hf := flagsOf_doInvK s
  rcases doInvK_cases s with ⟨c, _, e⟩ | ⟨x, _, e⟩ <;> rw [e] at hf ⊢
  · exact ⟨_, hf, .inr ⟨rfl, rfl⟩⟩
  · exact ⟨_, hf, .inl ⟨rfl, rfl⟩⟩

/-- EnsureKI is done exactly with `KI_VALID` set. -/
theorem ensureKI_split (s : State) : ∃ u, flagsOf u = (flagsOf s).ensuredKI (inverts u) ∧
    ((ensureKI s = .done u ∧ u.KI_VALID = true) ∨ (ensureKI s = .raised u ∧ u.KI_VALID = false)) := by
  have hK : (flagsOf s).KI_VALID = (ensureK s).KI_VALID := congrArg FlagValues.KI_VALID (flagsOf_ensureK s).symm
  rcases ensureKI_cases s with ⟨h, e⟩ | ⟨h, e⟩
  · refine ⟨ensureK s, ?_, .inl ⟨e, h⟩⟩
    rw [FlagValues.ensuredKI_valid _ _ (hK.trans h), flagsOf_ensureK]
  · obtain ⟨u, hu, ho⟩ := doInvK_split (ensureK s)
    exact ⟨u, by rw [hu, FlagValues.ensuredKI_missing _ _ (hK.trans h), flagsOf_ensureK], by rwa [e]⟩

/-- DoVerify is done exactly with `VERIFIED` set, and writes no store. -/
theorem doVerify_split (s : State) : ∃ u, flagsOf u = (flagsOf s).checked (agrees u) ∧ u.mem = s.mem ∧
    ((doVerify s = .done u ∧ u.VERIFIED = true) ∨ (doVerify s = .raised u ∧ u.VERIFIED = false)) := by
  have hf := flagsOf_doVerify s
  have hm := doVerify_mem s
  rw [← agrees_of_mem s _ hm] at hf
  rcases doVerify_cases s with ⟨_, e⟩ | ⟨_, _, e⟩ | ⟨_, _, e⟩ <;> rw [e] at hf hm ⊢
  · exact ⟨_, hf, hm, .inr ⟨rfl, rfl⟩⟩
  · exact ⟨_, hf, hm, .inr ⟨rfl, rfl⟩⟩
  · exact ⟨_, hf, hm, .inl ⟨rfl, rfl⟩⟩

/-- VERIFY is done exactly with `KI_VALID` and `VERIFIED` set. -/
theorem verify_split (s : State) : ∃ u, flagsOf u = (flagsOf s).afterVerify (inverts u) (agrees u) ∧
    ((andThen (ensureKI s) doVerify = .done u ∧ u.VERIFIED = true) ∨
      (andThen (ensureKI s) doVerify = .raised u ∧ u.VERIFIED = false)) := by
  obtain ⟨u, hu, ⟨e, hKI⟩ | ⟨e, hKI⟩⟩ := ensureKI_split s
  · obtain ⟨v, hv, hm, ho⟩ := doVerify_split u
    rw [← inverts_of_mem u v hm] at hu
    refine ⟨v, ?_, by rwa [e]⟩
    rw [FlagValues.afterVerify_of_inverse _ _ _ (by rw [← hu]; exact hKI), ← hu, hv]
  · have hg : ((flagsOf s).ensuredKI (inverts u)).KI_VALID = false := by rw [← hu]; exact hKI
    have hV : u.VERIFIED = false := (congrArg FlagValues.VERIFIED hu).trans (FlagValues.ensuredKI_failed _ _ hg)
    exact ⟨u, by rw [FlagValues.afterVerify_of_failure _ _ _ hg, hu], .inr ⟨by rw [e, andThen_raised], hV⟩⟩

/-- EnsureVerified is done exactly with `VERIFIED` set. -/
theorem ensureVerified_split (s : State) : ∃ u, flagsOf u = (flagsOf s).ensuredVerified (inverts u) (agrees u) ∧
    ((ensureVerified s = .done u ∧ u.VERIFIED = true) ∨ (ensureVerified s = .raised u ∧ u.VERIFIED = false)) := by
  obtain ⟨u, hu, ⟨e, hKI⟩ | ⟨e, hKI⟩⟩ := ensureKI_split s
  · cases hV : u.VERIFIED with
    | true =>
      refine ⟨u, ?_, .inl ⟨by rw [ensureVerified_done s u e, if_pos hV], hV⟩⟩
      rw [FlagValues.ensuredVerified_of_verified _ _ _ (by rw [← hu]; exact hV), hu]
    | false =>
      obtain ⟨v, hv, hm, ho⟩ := doVerify_split u
      rw [← inverts_of_mem u v hm] at hu
      refine ⟨v, ?_, by rwa [ensureVerified_done s u e, hV, if_neg Bool.false_ne_true]⟩
      rw [FlagValues.ensuredVerified_of_inverse _ _ _ (by rw [← hu]; exact hKI) (by rw [← hu]; exact hV), ← hu, hv]
  · have hg : ((flagsOf s).ensuredKI (inverts u)).KI_VALID = false := by rw [← hu]; exact hKI
    have hV : u.VERIFIED = false := (congrArg FlagValues.VERIFIED hu).trans (FlagValues.ensuredKI_failed _ _ hg)
    exact ⟨u, by rw [FlagValues.ensuredVerified_of_failure _ _ _ hg, hu], .inr ⟨ensureVerified_raised s u e, hV⟩⟩

/-! ## What holds where a stage is done -/

theorem ensureKI_done_KI_VALID (s u : State) (h : ensureKI s = .done u) : u.KI_VALID = true := by
  obtain ⟨v, _, ⟨e, hv⟩ | ⟨e, _⟩⟩ := ensureKI_split s <;> rw [h] at e <;> cases e
  exact hv

theorem ensureVerified_done_VERIFIED (s u : State) (h : ensureVerified s = .done u) : u.VERIFIED = true := by
  obtain ⟨v, _, ⟨e, hv⟩ | ⟨e, _⟩⟩ := ensureVerified_split s <;> rw [h] at e <;> cases e
  exact hv

theorem ensureKI_done_T_VALID (s u : State) (h : ensureKI s = .done u) : u.T_VALID = true := by
  obtain ⟨v, hv, ⟨e, _⟩ | ⟨e, _⟩⟩ := ensureKI_split s <;> rw [h] at e <;> cases e
  exact (congrArg FlagValues.T_VALID hv).trans (FlagValues.ensuredKI_T_VALID _ _)

theorem ensureVerified_done_valid (s u : State) (h : ensureVerified s = .done u) :
    u.T_VALID = true ∧ u.KI_VALID = true := by
  obtain ⟨v, hv, ⟨e, hV⟩ | ⟨e, _⟩⟩ := ensureVerified_split s <;> rw [h] at e <;> cases e
  have hvalid := FlagValues.ensuredVerified_valid (inverts u) (agrees u) (flagsOf s) (hv ▸ hV)
  rwa [← hv] at hvalid

/-! ## The commands -/

theorem flagsOf_jumpGenStage (s u : State) (h : stageState (jumpGenStage s) = u) :
    flagsOf u = (flagsOf s).jumpGenerated (inverts u) (agrees u) := by
  cases hN : s.NEG with
  | true =>
    rw [jumpGenStage_negative s hN] at h
    rw [FlagValues.jumpGenerated_negative _ _ _ hN, ← h]
    rfl
  | false =>
    rw [jumpGenStage_nonnegative s hN] at h
    rw [FlagValues.jumpGenerated_nonnegative _ _ _ hN]
    obtain ⟨v, hv, ⟨e, hV⟩ | ⟨e, hV⟩⟩ := ensureVerified_split { s with J_VALID := false } <;> rw [e] at h
    · have hu : u = emitJump v := h.symm
      have hmem : u.mem = v.mem := by rw [hu, emitJump_mem]
      rw [← inverts_of_mem v u hmem, ← agrees_of_mem v u hmem] at hv
      exact (congrArg flagsOf hu).trans ((FlagValues.emitted_of_verified _ hV).symm.trans (congrArg _ hv))
    · obtain rfl : v = u := h
      have hJ : (flagsOf v).J_VALID = false := by
        rw [hv]; exact FlagValues.ensuredVerified_J_cleared _ _ (flagsOf s)
      exact (FlagValues.emitted_of_failure _ hV hJ).symm.trans (congrArg _ hv)

/-- What a command makes of the flags, 10_state.md R28: the table `flagsAfter`. -/
theorem flagsOf_exec (i : Instr) (s t : State) (h : exec i s = .next t) :
    flagsOf t = flagsAfter (inverts t) (agrees t) i (flagsOf s) := by
  cases i <;> injection h with h
  case nop => rw [← h]; rfl
  case step => rw [← h]; rfl
  case enc => rw [← h]; rfl
  case dec => rw [← h]; rfl
  case jApply => rw [← h]; rfl
  case clrErr => rw [← h]; exact flagsOf_clearFault s
  case buildT => rw [← h]; rfl
  case mvmulT => rw [← h, flagsOf_multiplyV, flagsOf_ensureT]; rfl
  case buildK =>
    have hB : flagsOf (doBuildK (ensureT s)) = { flagsOf (ensureT s) with K_VALID := true } := rfl
    rw [← h, hB, flagsOf_ensureT]; rfl
  case mvmulK => rw [← h, flagsOf_multiplyV, flagsOf_ensureK]; rfl
  case invK => rw [← h, flagsOf_doInvK, flagsOf_ensureK]; rfl
  case mvmulKI =>
    obtain ⟨u, hu, ⟨e, _⟩ | ⟨e, _⟩⟩ := ensureKI_split s <;> rw [e] at h
    · have hm : t.mem = u.mem := by rw [← h]; rfl
      rw [← inverts_of_mem u t hm] at hu
      rw [flagsAfter, ← hu, ← h]; rfl
    · obtain rfl : u = t := h
      exact hu
  case verify =>
    obtain ⟨u, hu, ho⟩ := verify_split s
    obtain rfl : u = t := (stageState_of_split ho).symm.trans h
    exact hu
  case init =>
    obtain ⟨u, hu, ho⟩ := ensureVerified_split s
    obtain rfl : u = t := (stageState_of_split ho).symm.trans h
    exact hu
  case jumpGen => exact flagsOf_jumpGenStage s t h

end Sys2Proof.Machine
end

/-! # The flag chain, and the six values of `STATUS[4:0]` (10_state.md R43) -/
section
namespace Sys2Proof.Machine

/-- The flag chain of 10_state.md R43 as a property of the flags. -/
structure FlagValues.Chain (f : FlagValues) : Prop where
  jump : f.J_VALID = true → f.VERIFIED = true
  verified : f.VERIFIED = true → f.KI_VALID = true
  inverse : f.KI_VALID = true → f.K_VALID = true
  krylov : f.K_VALID = true → f.T_VALID = true

theorem flagChain_iff (s : State) : FlagChain s ↔ (flagsOf s).Chain :=
  ⟨fun ⟨hj, hv, hi, hk⟩ => ⟨hj, hv, hi, hk⟩, fun ⟨hj, hv, hi, hk⟩ => ⟨hj, hv, hi, hk⟩⟩

section
variable {f : FlagValues} (inv agree : Bool)

theorem FlagValues.Chain.ensuredT (h : f.Chain) : f.ensuredT.Chain :=
  ⟨h.jump, h.verified, h.inverse, fun _ => rfl⟩

theorem FlagValues.Chain.ensuredK (h : f.Chain) : f.ensuredK.Chain :=
  ⟨h.jump, h.verified, fun _ => rfl, fun _ => rfl⟩

theorem FlagValues.Chain.inverted_ensuredK : (f.ensuredK.inverted inv).Chain :=
  ⟨fun hj => absurd hj Bool.false_ne_true, fun hv => absurd hv Bool.false_ne_true, fun _ => rfl, fun _ => rfl⟩

theorem FlagValues.Chain.ensuredKI (h : f.Chain) : (f.ensuredKI inv).Chain := by
  unfold FlagValues.ensuredKI
  split
  · exact h.ensuredK
  · exact FlagValues.Chain.inverted_ensuredK inv

theorem FlagValues.Chain.checked (h : f.Chain) (hki : f.KI_VALID = true) : (f.checked agree).Chain :=
  ⟨fun hj => (Bool.and_eq_true_iff.mp hj).2, fun _ => hki, h.inverse, h.krylov⟩

theorem FlagValues.Chain.afterVerify (h : f.Chain) : (FlagValues.afterVerify inv agree f).Chain := by
  cases hki : (f.ensuredKI inv).KI_VALID with
  | true => rw [FlagValues.afterVerify_of_inverse _ _ _ hki]; exact (h.ensuredKI inv).checked agree hki
  | false => rw [FlagValues.afterVerify_of_failure _ _ _ hki]; exact h.ensuredKI inv

theorem FlagValues.Chain.ensuredVerified (h : f.Chain) : (f.ensuredVerified inv agree).Chain := by
  cases hv : (f.ensuredKI inv).VERIFIED with
  | true => rw [FlagValues.ensuredVerified_of_verified _ _ _ hv]; exact h.ensuredKI inv
  | false =>
    cases hki : (f.ensuredKI inv).KI_VALID with
    | true => rw [FlagValues.ensuredVerified_of_inverse _ _ _ hki hv]; exact (h.ensuredKI inv).checked agree hki
    | false => rw [FlagValues.ensuredVerified_of_failure _ _ _ hki]; exact h.ensuredKI inv

theorem FlagValues.Chain.emitted (h : f.Chain) : f.emitted.Chain :=
  ⟨fun hv => hv, h.verified, h.inverse, h.krylov⟩

theorem FlagValues.Chain.clearedJ (h : f.Chain) : FlagValues.Chain { f with J_VALID := false } :=
  ⟨fun hj => absurd hj Bool.false_ne_true, h.verified, h.inverse, h.krylov⟩

theorem FlagValues.Chain.jumpGenerated (h : f.Chain) : (f.jumpGenerated inv agree).Chain := by
  unfold FlagValues.jumpGenerated
  split
  · exact h.clearedJ
  · exact (h.clearedJ.ensuredVerified inv agree).emitted

/-- Every command keeps the flag chain, whatever its stages find. -/
theorem FlagValues.Chain.flagsAfter (i : Instr) (h : f.Chain) : (flagsAfter inv agree i f).Chain := by
  cases i
  case buildT => exact h.ensuredT
  case mvmulT => exact h.ensuredT
  case buildK => exact h.ensuredK
  case mvmulK => exact h.ensuredK
  case invK => exact FlagValues.Chain.inverted_ensuredK inv
  case mvmulKI => exact h.ensuredKI inv
  case verify => exact h.afterVerify inv agree
  case init => exact h.ensuredVerified inv agree
  case jumpGen => exact h.jumpGenerated inv agree
  all_goals exact h

end

theorem effect_keeps_flagChain (s t : State) (h : FlagChain s) (ht : Effect s t) : FlagChain t := by
  rw [flagChain_iff] at h ⊢
  cases ht with
  | command i t hi => rw [flagsOf_exec i s t hi]; exact h.flagsAfter _ _ i
  | cleared => rw [flagsOf_clearFault]; exact h
  | reset => constructor <;> exact fun hf => absurd hf Bool.false_ne_true
  | wroteJ q => exact h.clearedJ
  | wroteNEG b => exact ⟨h.jump, h.verified, h.inverse, h.krylov⟩
  | _ => exact h

/-- Bits 4:0 of `STATUS` are the five flags, 10_state.md R31; in a chain they are a run of ones from bit 0. -/
theorem statusBits_of_chain : ∀ fatal err j v ki k t : Bool,
    (j = true → v = true) → (v = true → ki = true) → (ki = true → k = true) → (k = true → t = true) →
    (flagBit fatal 6 ||| flagBit err 5 ||| flagBit j 4 ||| flagBit v 3 ||| flagBit ki 2 ||| flagBit k 1
      ||| flagBit t 0).toNat % 32 ∈ [0x00, 0x01, 0x03, 0x07, 0x0F, 0x1F] := by
  decide

/-- Settles O56: the chain is a property of the flags, and the flags after a command are those of `flagsAfter`. -/
theorem stepKeepsFlagChain : Obligations.StepKeepsFlagChain :=
  ⟨step_keeps FlagChain effect_keeps_flagChain (fun _ _ h => ⟨h.jump, h.verified, h.inverse, h.krylov⟩),
    fun _ h => statusBits_of_chain _ _ _ _ _ _ _ h.jump h.verified h.inverse h.krylov⟩

end Sys2Proof.Machine
end

/-! # Gauss-Jordan elimination that succeeds returns the two-sided inverse (42_inversion.md R115, R116) -/
section
namespace Sys2Proof.Machine

/-! ## Matrices by their rows and by the maps they give -/

theorem matrix_ext_rows (A B : Matrix) (hA : A.length = 256) (hB : B.length = 256)
    (h : ∀ r < 256, rowOf A r = rowOf B r) : A = B := by
  apply List.ext_getElem (hA.trans hB.symm)
  intro r h1 h2
  have hr := h r (hA ▸ h1)
  rwa [rowOf, rowOf, List.getD_eq_getElem _ _ h1, List.getD_eq_getElem _ _ h2] at hr

theorem getLsbD_rowOf_eq_matVec (A : Matrix) (r c : Nat) (hA : A.length = 256) (hr : r < 256) (hc : c < 256) :
    (rowOf A r).getLsbD c = (matVec A (basisRow c)).getLsbD r := by
  rw [matVec_basisRow A c hA hc, getLsbD_columnOf A c r hr]

/-- A matrix is determined by its products with the basis vectors. -/
theorem matrix_ext_matVec (A B : Matrix) (hA : A.length = 256) (hB : B.length = 256)
    (h : ∀ v, matVec A v = matVec B v) : A = B := by
  refine matrix_ext_rows A B hA hB (fun r hr => BitVec.eq_of_getLsbD_eq (fun c hc => ?_))
  rw [getLsbD_rowOf_eq_matVec A r c hA hr hc, getLsbD_rowOf_eq_matVec B r c hB hr hc, h]

/-- A left inverse is a right inverse: the map of `A` is injective, so it is onto, there being finitely many vectors. -/
theorem isInverse_of_left (A X : Matrix) (hA : A.length = 256) (hX : X.length = 256) (h : matMul X A = identity) :
    IsInverse A X := by
  have hleft : ∀ v, matVec X (matVec A v) = v := fun v => by
    rw [← matVec_matMul X A v hX hA, h, matVec_identity]
  have honto : Function.Surjective (matVec A) :=
    Finite.injective_iff_surjective.mp (Function.LeftInverse.injective hleft)
  refine ⟨matrix_ext_matVec _ _ (by rw [length_matMul, hA]) length_identity (fun w => ?_), h⟩
  obtain ⟨v, rfl⟩ := honto w
  rw [matVec_matMul A X _ hA hX, hleft, matVec_identity]

theorem combineRows_xor (a b : Row) (k : Nat) (B : Matrix) :
    combineRows (a ^^^ b) k B = combineRows a k B ^^^ combineRows b k B := by
  apply BitVec.eq_of_getLsbD_eq
  intro c _
  simp only [BitVec.getLsbD_xor, getLsbD_combineRows, ← xorUpTo_xor, Bool.and_xor_distrib_right]

/-! ## The two facts the loop keeps -/

/-- Every row of the left half is the combination of the rows of `A` that the right half names. -/
def Combines (A : Matrix) (rows : Augmented) : Prop :=
  ∀ r < 256, (pairAt rows r).1 = combineRows (pairAt rows r).2 0 A

/-- The columns below `c` of the left half are those of the identity. -/
def UnitColumns (c : Nat) (rows : Augmented) : Prop :=
  ∀ j < c, ∀ r < 256, (pairAt rows r).1.getLsbD j = decide (r = j)

/-- What the loop does for column `c` with its pivot in row `p`: swap, then eliminate. -/
def pivotStep (c p : Nat) (rows : Augmented) : Augmented :=
  eliminate c (pairAt (swapRows rows p c) c) 0 (swapRows rows p c)

@[simp] theorem length_pivotStep (c p : Nat) (rows : Augmented) : (pivotStep c p rows).length = rows.length := by
  simp [pivotStep]

theorem pairAt_pivotStep (c p i : Nat) (rows : Augmented) (hi : i < rows.length) :
    pairAt (pivotStep c p rows) i =
      if i ≠ c ∧ (pairAt (swapRows rows p c) i).1.getLsbD c = true then
        ((pairAt (swapRows rows p c) i).1 ^^^ (pairAt (swapRows rows p c) c).1,
          (pairAt (swapRows rows p c) i).2 ^^^ (pairAt (swapRows rows p c) c).2)
      else pairAt (swapRows rows p c) i := by
  rw [pivotStep, pairAt_eliminate _ _ _ _ _ (by rwa [length_swapRows]), Nat.zero_add]

theorem combines_zip_identity (A : Matrix) (hA : A.length = 256) : Combines A (A.zip identity) := by
  intro r hr
  rw [pairAt_zip A identity r (by omega) (by rw [length_identity]; exact hr), rowOf_identity r hr,
    combineRows_basisRow r 0 A hr, if_pos (Nat.zero_le r)]
  rfl

theorem combines_swapRows (A : Matrix) (c p : Nat) (rows : Augmented) (hl : rows.length = 256) (hc : c < 256)
    (hp : p < 256) (h : Combines A rows) : Combines A (swapRows rows p c) := by
  intro r hr
  rw [pairAt_swapRows rows p c r (by omega) (by omega)]
  split_ifs
  · exact h p hp
  · exact h c hc
  · exact h r hr

theorem combines_pivotStep (A : Matrix) (c p : Nat) (rows : Augmented) (hl : rows.length = 256) (hc : c < 256)
    (hp : p < 256) (h : Combines A rows) : Combines A (pivotStep c p rows) := by
  have hs := combines_swapRows A c p rows hl hc hp h
  intro r hr
  rw [pairAt_pivotStep c p r rows (by omega)]
  split_ifs
  · rw [hs r hr, hs c hc, combineRows_xor]
  · exact hs r hr

/-- A swap of two rows from `c` on leaves the columns below `c`, which are 0 in both. -/
theorem unitColumns_swapRows (c p : Nat) (rows : Augmented) (hl : rows.length = 256) (hcp : c ≤ p) (hp : p < 256)
    (h : UnitColumns c rows) : UnitColumns c (swapRows rows p c) := by
  intro j hj r hr
  rw [pairAt_swapRows rows p c r (by omega) (by omega)]
  split_ifs with h1 h2
  · rw [h j hj p hp, decide_eq_decide]; omega
  · rw [h j hj c (by omega), decide_eq_decide]; omega
  · exact h j hj r hr

theorem unitColumns_pivotStep (c p : Nat) (rows : Augmented) (hl : rows.length = 256)
    (hp : findPivot rows c = some p) (h : UnitColumns c rows) : UnitColumns (c + 1) (pivotStep c p rows) := by
  obtain ⟨hcp, hp256, hone, _⟩ := findPivot_some rows c p hp
  have hs := unitColumns_swapRows c p rows hl hcp hp256 h
  have hpivot : (pairAt (swapRows rows p c) c).1.getLsbD c = true := by
    rw [pairAt_swapRows rows p c c (by omega) (by omega), if_pos rfl]; exact hone
  intro j hj r hr
  rw [pairAt_pivotStep c p r rows (by omega)]
  rcases Nat.lt_or_eq_of_le (Nat.le_of_lt_succ hj) with hj | rfl
  · have hzero : (pairAt (swapRows rows p c) c).1.getLsbD j = false := by
      rw [hs j hj c (by omega)]; exact decide_eq_false (by omega)
    split_ifs
    · rw [BitVec.getLsbD_xor, hzero, Bool.xor_false, hs j hj r hr]
    · exact hs j hj r hr
  · split_ifs with hother
    · rw [BitVec.getLsbD_xor, hother.2, hpivot, decide_eq_false hother.1]; rfl
    · by_cases hrj : r = j
      · rw [hrj, hpivot, decide_eq_true rfl]
      · rw [decide_eq_false hrj]
        exact Bool.eq_false_iff.mpr (fun hbit => hother ⟨hrj, hbit⟩)

/-! ## The loop -/

theorem gaussJordanLoop_ok (A X : Matrix) (n c : Nat) (rows : Augmented) (hn : c + n = 256)
    (hl : rows.length = 256) (hA : Combines A rows) (hI : UnitColumns c rows)
    (h : gaussJordanLoop (List.range' c n) rows = .ok X) :
    ∃ final : Augmented, X = final.map Prod.snd ∧ final.length = 256 ∧ Combines A final ∧ UnitColumns 256 final := by
  induction n generalizing c rows with
  | zero =>
    obtain rfl : c = 256 := hn
    cases h
    exact ⟨rows, rfl, hl, hA, hI⟩
  | succ n ih =>
    rw [List.range'_succ] at h
    cases hp : findPivot rows c with
    | none => rw [gaussJordanLoop_fail c _ rows hp] at h; cases h
    | some p =>
      obtain ⟨_, hp256, _⟩ := findPivot_some rows c p hp
      rw [gaussJordanLoop_cons c p _ rows hp] at h
      exact ih (c + 1) (pivotStep c p rows) (by omega) (by rw [length_pivotStep, hl])
        (combines_pivotStep A c p rows hl (by omega) hp256 hA) (unitColumns_pivotStep c p rows hl hp hI) h

theorem gaussJordanLoop_fail_mem (cs : List Nat) (rows : Augmented) (c : Nat)
    (h : gaussJordanLoop cs rows = .fail c) : c ∈ cs := by
  induction cs generalizing rows with
  | nil => cases h
  | cons c' cs ih =>
    cases hp : findPivot rows c' with
    | none =>
      rw [gaussJordanLoop_fail c' cs rows hp] at h
      cases h
      exact List.mem_cons_self
    | some p =>
      rw [gaussJordanLoop_cons c' p cs rows hp] at h
      exact List.mem_cons_of_mem _ (ih _ h)

theorem gaussJordan_fail_lt (A : Matrix) (c : Nat) (h : gaussJordan A = .fail c) : c < 256 :=
  List.mem_range.mp (gaussJordanLoop_fail_mem _ _ c h)

theorem length_zip_identity (A : Matrix) (hA : A.length = 256) : (A.zip identity).length = 256 := by
  rw [List.length_zip, hA, length_identity]; rfl

/-- At the end the left half is the identity, so the right half is a left inverse. -/
theorem gaussJordan_ok_inverse (A X : Matrix) (hA : A.length = 256) (h : gaussJordan A = .ok X) :
    X.length = 256 ∧ IsInverse A X := by
  rw [gaussJordan, List.range_eq_range'] at h
  obtain ⟨final, rfl, hl, hcombines, hunit⟩ := gaussJordanLoop_ok A X 256 0 (A.zip identity) rfl
    (length_zip_identity A hA) (combines_zip_identity A hA) (fun j hj => absurd hj (Nat.not_lt_zero j)) h
  have hX : (final.map Prod.snd).length = 256 := by rw [List.length_map, hl]
  refine ⟨hX, isInverse_of_left A _ hA hX (matrix_ext_rows _ _ (by rw [length_matMul, hX]) length_identity ?_)⟩
  intro r hr
  have hright : rowOf (final.map Prod.snd) r = (pairAt final r).2 := by
    simp [rowOf, pairAt, List.getD, hl, hr]
  rw [rowOf_matMul _ _ r (by omega), hright, ← hcombines r hr, rowOf_identity r hr]
  apply BitVec.eq_of_getLsbD_eq
  intro j hj
  rw [hunit j hj r hr, getLsbD_basisRow, decide_eq_true hj, Bool.true_and, decide_eq_decide]
  exact eq_comm

end Sys2Proof.Machine
end

/-! # The invariant of the machine (10_state.md R27, R33, R40, R43) -/
section
namespace Sys2Proof.Machine

/-! ## The invariant, spoken of whole matrices -/

theorem storeHolds_iff (m : StoreId) (M : Matrix) (s : State) (hM : M.length = 256) :
    StoreHolds m M s ↔ readMatrix m s = M := by
  constructor
  · intro h
    exact matrix_ext_rows _ _ (length_readMatrix m s) hM (fun r hr => by rw [rowOf_readMatrix m s r hr, h r hr])
  · intro h r hr
    rw [← rowOf_readMatrix m s r hr, h]

/-- The invariant with the content of the valid stores as matrices, `TMAT` in place of store `TS` in the jump
constants. -/
structure MatrixInv (s : State) : Prop where
  canonical : s.mem.wf
  chain : (flagsOf s).Chain
  ts : s.T_VALID = true → readMatrix .TS s = tMat
  ks : s.K_VALID = true → readMatrix .KS s = kMat
  kis : s.KI_VALID = true → IsInverse kMat (readMatrix .KIS s)
  errInfo : ErrInfoMeaning s
  verified128 : s.VERIFIED = true → jumpConstant tMat (readMatrix .KIS s) (basisRow 128) = Config.ref128
  verified192 : s.VERIFIED = true → jumpConstant tMat (readMatrix .KIS s) (basisRow 192) = Config.ref192
  jump : s.J_VALID = true → ∃ n, s.J = jumpConstant tMat (readMatrix .KIS s) n

theorem FlagValues.Chain.T_of_verified {f : FlagValues} (h : f.Chain) (hv : f.VERIFIED = true) : f.T_VALID = true :=
  h.krylov (h.inverse (h.verified hv))

theorem storedJump_of_ts (s : State) (n : Row) (h : readMatrix .TS s = tMat) :
    storedJump s n = jumpConstant tMat (readMatrix .KIS s) n := by
  rw [storedJump, h]

theorem inv_iff (s : State) : Inv s ↔ MatrixInv s := by
  constructor
  · intro h
    have hchain := (flagChain_iff s).mp h.chain
    have hts : s.T_VALID = true → readMatrix .TS s = tMat :=
      fun ht => (storeHolds_iff .TS tMat s length_tMat).mp (h.contents.ts ht)
    have hjump : s.VERIFIED = true → ∀ n, storedJump s n = jumpConstant tMat (readMatrix .KIS s) n :=
      fun hv n => storedJump_of_ts s n (hts (hchain.T_of_verified hv))
    exact
      { canonical := h.canonical
        chain := hchain
        ts := hts
        ks := fun hk => (storeHolds_iff .KS kMat s (length_krylovMatrix _)).mp (h.contents.ks hk)
        kis := h.contents.kis
        errInfo := h.errInfo
        verified128 := fun hv => hjump hv _ ▸ h.output.verified128 hv
        verified192 := fun hv => hjump hv _ ▸ h.output.verified192 hv
        jump := fun hj => by
          obtain ⟨n, hn⟩ := h.output.jump hj
          exact ⟨n, hn.trans (hjump (hchain.jump hj) n)⟩ }
  · intro h
    have hjump : s.VERIFIED = true → ∀ n, storedJump s n = jumpConstant tMat (readMatrix .KIS s) n :=
      fun hv n => storedJump_of_ts s n (h.ts (h.chain.T_of_verified hv))
    exact
      { canonical := h.canonical
        chain := (flagChain_iff s).mpr h.chain
        contents :=
          { ts := fun ht => (storeHolds_iff .TS tMat s length_tMat).mpr (h.ts ht)
            ks := fun hk => (storeHolds_iff .KS kMat s (length_krylovMatrix _)).mpr (h.ks hk)
            kis := h.kis }
        errInfo := h.errInfo
        output :=
          { verified128 := fun hv => (hjump hv _).trans (h.verified128 hv)
            verified192 := fun hv => (hjump hv _).trans (h.verified192 hv)
            jump := fun hj => by
              obtain ⟨n, hn⟩ := h.jump hj
              exact ⟨n, hn.trans (hjump (h.chain.jump hj) n).symm⟩ } }

/-- The invariant does not speak of the registers `S`, `V`, `N`, `NEG` and `MADDR`, nor of the run. -/
theorem MatrixInv.registers {s : State} (h : MatrixInv s) {S : Words4} {V N : Row} {NEG : Bool} {MADDR : BitVec 12}
    {script : List HostEvent} {pc : Nat} {obs : List Observed} :
    MatrixInv { s with S := S, V := V, N := N, NEG := NEG, MADDR := MADDR, script := script, pc := pc, obs := obs } :=
  ⟨h.canonical, ⟨h.chain.jump, h.chain.verified, h.chain.inverse, h.chain.krylov⟩, h.ts, h.ks, h.kis, h.errInfo,
    h.verified128, h.verified192, h.jump⟩

/-- With `J_VALID` cleared the invariant does not speak of `J`. -/
theorem MatrixInv.clearedJ {s : State} (h : MatrixInv s) (J : Words4) :
    MatrixInv { s with J := J, J_VALID := false } :=
  ⟨h.canonical, h.chain.clearedJ, h.ts, h.ks, h.kis, h.errInfo, h.verified128, h.verified192,
    fun hj => absurd hj Bool.false_ne_true⟩

/-- The invariant speaks of the fault through the information it carries only. -/
theorem MatrixInv.fault {s : State} (h : MatrixInv s) (f : ErrCode) (info : Word)
    (hf : ErrInfoMeaning { s with ERR_CODE := f, ERRINFO := info }) :
    MatrixInv { s with ERR_CODE := f, ERRINFO := info } :=
  ⟨h.canonical, h.chain, h.ts, h.ks, h.kis, hf, h.verified128, h.verified192, h.jump⟩

/-- Canonical stores, all flags cleared and no fault: what a reset leaves, 10_state.md R41. -/
theorem matrixInv_of_cleared (s : State) (hmem : s.mem.wf)
    (hf : flagsOf s = ⟨false, false, false, false, false, false⟩) (he : s.ERR_CODE = .none) (hi : s.ERRINFO = 0) :
    MatrixInv s := by
  have hT : s.T_VALID = false := congrArg FlagValues.T_VALID hf
  have hK : s.K_VALID = false := congrArg FlagValues.K_VALID hf
  have hKI : s.KI_VALID = false := congrArg FlagValues.KI_VALID hf
  have hV : s.VERIFIED = false := congrArg FlagValues.VERIFIED hf
  have hJ : s.J_VALID = false := congrArg FlagValues.J_VALID hf
  refine ⟨hmem, ?_, ?_, ?_, ?_, ?_, ?_, ?_, ?_⟩
  · rw [hf]; constructor <;> exact fun h => absurd h Bool.false_ne_true
  · exact fun h => absurd (hT.symm.trans h) Bool.false_ne_true
  · exact fun h => absurd (hK.symm.trans h) Bool.false_ne_true
  · exact fun h => absurd (hKI.symm.trans h) Bool.false_ne_true
  · rw [ErrInfoMeaning, he]; exact hi
  · exact fun h => absurd (hV.symm.trans h) Bool.false_ne_true
  · exact fun h => absurd (hV.symm.trans h) Bool.false_ne_true
  · exact fun h => absurd (hJ.symm.trans h) Bool.false_ne_true

theorem matrixInv_reset : MatrixInv State.reset := matrixInv_of_cleared _ reset_wf rfl rfl rfl

theorem matrixInv_resetCore (s : State) : MatrixInv (resetCore s) :=
  matrixInv_of_cleared _ (resetCore_wf s) (flagsOf_resetCore s) rfl rfl

/-- Settles O55: a reset leaves canonical stores, no flag and no fault. -/
theorem invHoldsAfterReset : Obligations.InvHoldsAfterReset :=
  ⟨(inv_iff _).mpr matrixInv_reset, fun s => (inv_iff _).mpr (matrixInv_resetCore s)⟩

/-! ## The stages keep it -/

section
variable {s : State}

theorem MatrixInv.doBuildT (h : MatrixInv s) : MatrixInv (doBuildT s) := by
  have hother : ∀ m, m ≠ .TS → readMatrix m (Machine.doBuildT s) = readMatrix m s :=
    fun m hm => readMatrix_of_otherMatrix .TS m tMat s _ (doBuildT_mem s) hm
  have hkis := hother .KIS (by decide)
  refine ⟨doBuildT_wf s h.canonical, h.chain.ensuredT, fun _ => readMatrix_doBuildT s, ?_, ?_, h.errInfo, ?_, ?_, ?_⟩
  · rw [hother .KS (by decide)]; exact h.ks
  · rw [hkis]; exact h.kis
  · rw [hkis]; exact h.verified128
  · rw [hkis]; exact h.verified192
  · rw [hkis]; exact h.jump

theorem MatrixInv.ensureT (h : MatrixInv s) : MatrixInv (ensureT s) := by
  rcases ensureT_cases s with ⟨_, e⟩ | ⟨_, e⟩ <;> rw [e]
  · exact h
  · exact h.doBuildT

theorem MatrixInv.doBuildK (h : MatrixInv s) (ht : s.T_VALID = true) : MatrixInv (doBuildK s) := by
  have hother : ∀ m, m ≠ .KS → readMatrix m (Machine.doBuildK s) = readMatrix m s :=
    fun m hm => readMatrix_of_otherMatrix .KS m _ s _ (doBuildK_mem s) hm
  have hkis := hother .KIS (by decide)
  refine ⟨doBuildK_wf s h.canonical, ⟨h.chain.jump, h.chain.verified, fun _ => rfl, fun _ => ht⟩, ?_, fun _ => ?_, ?_,
    h.errInfo, ?_, ?_, ?_⟩
  · rw [hother .TS (by decide)]; exact h.ts
  · rw [readMatrix_doBuildK, h.ts ht, kMat]
  · rw [hkis]; exact h.kis
  · rw [hkis]; exact h.verified128
  · rw [hkis]; exact h.verified192
  · rw [hkis]; exact h.jump

theorem MatrixInv.ensureK (h : MatrixInv s) : MatrixInv (ensureK s) := by
  rcases ensureK_cases s with ⟨_, e⟩ | ⟨_, e⟩ <;> rw [e]
  · exact h.ensureT
  · exact h.ensureT.doBuildK (ensureT_T_VALID s)

/-- A failed inversion clears the three flags it would set or promise, 42_inversion.md R117. -/
theorem MatrixInv.singular (h : MatrixInv s) (c : Nat) (hc : c < 256) :
    MatrixInv (raise .singular (BitVec.ofNat 64 c) (loseKIS (invStart s))) := by
  refine ⟨loseKIS_wf _ h.canonical, ?_, ?_, ?_, ?_, ?_, ?_, ?_, ?_⟩
  · exact ⟨fun hj => absurd hj Bool.false_ne_true, fun hv => absurd hv Bool.false_ne_true,
      fun hi => absurd hi Bool.false_ne_true, h.chain.krylov⟩
  · exact h.ts
  · exact h.ks
  · exact fun hi => absurd hi Bool.false_ne_true
  · change (BitVec.ofNat 64 c).toNat < 256
    rw [BitVec.toNat_ofNat]; omega
  · exact fun hv => absurd hv Bool.false_ne_true
  · exact fun hv => absurd hv Bool.false_ne_true
  · exact fun hj => absurd hj Bool.false_ne_true

theorem MatrixInv.inverted (h : MatrixInv s) (hk : s.K_VALID = true) (x : Matrix) (t : State)
    (hx : gaussJordan (readMatrix .KS s) = .ok x)
    (ht : t = { invStart s with mem := memWithMatrix s.mem .KIS x, KI_VALID := true }) : MatrixInv t := by
  obtain ⟨hlen, hinv⟩ := gaussJordan_ok_inverse _ x (length_readMatrix .KS s) hx
  have hmem : t.mem = memWithMatrix s.mem .KIS x := by rw [ht]
  have hTS := readMatrix_of_otherMatrix .KIS .TS x s t hmem (by decide)
  have hKS := readMatrix_of_otherMatrix .KIS .KS x s t hmem (by decide)
  have hKIS := readMatrix_of_matrix .KIS x s.mem t hmem hlen
  rw [h.ks hk] at hinv
  subst ht
  exact ⟨memWithMatrix_wf _ _ _ h.canonical,
    ⟨fun hj => absurd hj Bool.false_ne_true, fun hv => absurd hv Bool.false_ne_true, fun _ => hk, h.chain.krylov⟩,
    fun ht => hTS.trans (h.ts ht), fun hk => hKS.trans (h.ks hk), fun _ => hKIS.symm ▸ hinv, h.errInfo,
    fun hv => absurd hv Bool.false_ne_true, fun hv => absurd hv Bool.false_ne_true,
    fun hj => absurd hj Bool.false_ne_true⟩

theorem MatrixInv.doInvK (h : MatrixInv s) (hk : s.K_VALID = true) : MatrixInv (stageState (doInvK s)) := by
  rcases doInvK_cases s with ⟨c, hc, e⟩ | ⟨x, hx, e⟩ <;> rw [e]
  · exact h.singular c (gaussJordan_fail_lt _ c hc)
  · exact h.inverted hk x _ hx rfl

theorem MatrixInv.ensureKI (h : MatrixInv s) : MatrixInv (stageState (ensureKI s)) := by
  rcases ensureKI_cases s with ⟨_, e⟩ | ⟨_, e⟩ <;> rw [e]
  · exact h.ensureK
  · exact h.ensureK.doInvK (ensureK_K_VALID s)

/-- A mismatch clears `VERIFIED` and `J_VALID` and carries the number of the constant, 43_jump.md R135. -/
theorem MatrixInv.mismatch (h : MatrixInv s) (info : Word) (hi : info = 0 ∨ info = 1) :
    MatrixInv (raise .verifyMismatch info { s with VERIFIED := false, J_VALID := false }) :=
  ⟨h.canonical,
    ⟨fun hj => absurd hj Bool.false_ne_true, fun hv => absurd hv Bool.false_ne_true, h.chain.inverse, h.chain.krylov⟩,
    h.ts, h.ks, h.kis, hi, fun hv => absurd hv Bool.false_ne_true, fun hv => absurd hv Bool.false_ne_true,
    fun hj => absurd hj Bool.false_ne_true⟩

theorem MatrixInv.doVerify (h : MatrixInv s) (hki : s.KI_VALID = true) : MatrixInv (stageState (doVerify s)) := by
  have hts := h.ts (h.chain.krylov (h.chain.inverse hki))
  rcases doVerify_cases s with ⟨_, e⟩ | ⟨_, _, e⟩ | ⟨h1, h2, e⟩ <;> rw [e]
  · exact h.mismatch 0 (.inl rfl)
  · exact h.mismatch 1 (.inr rfl)
  · rw [storedJump_of_ts s _ hts] at h1 h2
    exact ⟨h.canonical, ⟨fun _ => rfl, fun _ => hki, h.chain.inverse, h.chain.krylov⟩, h.ts, h.ks, h.kis, h.errInfo,
      fun _ => h1, fun _ => h2, h.jump⟩

/-- A stage that keeps the invariant, and then another that keeps it where the first was done. -/
theorem matrixInv_andThen (x : Stage) (f : State → Stage) (hx : MatrixInv (stageState x))
    (hf : ∀ u, x = .done u → MatrixInv u → MatrixInv (stageState (f u))) : MatrixInv (stageState (andThen x f)) := by
  cases x with
  | done u => exact hf u rfl hx
  | raised u => exact hx

theorem MatrixInv.ensureVerified (h : MatrixInv s) : MatrixInv (stageState (ensureVerified s)) := by
  refine matrixInv_andThen _ _ h.ensureKI (fun u hu hinv => ?_)
  split
  · exact hinv
  · exact hinv.doVerify (ensureKI_done_KI_VALID s u hu)

theorem MatrixInv.emitJump (h : MatrixInv s) (hv : s.VERIFIED = true) : MatrixInv (emitJump s) :=
  ⟨h.canonical, ⟨fun _ => hv, h.chain.verified, h.chain.inverse, h.chain.krylov⟩, h.ts, h.ks, h.kis, h.errInfo,
    h.verified128, h.verified192, fun _ => ⟨s.N, storedJump_of_ts s s.N (h.ts (h.chain.T_of_verified hv))⟩⟩

theorem MatrixInv.jumpGenStage (h : MatrixInv s) : MatrixInv (stageState (jumpGenStage s)) := by
  have hJ := h.clearedJ s.J
  cases hN : s.NEG with
  | true => rw [jumpGenStage_negative s hN]; exact hJ.fault .invalidInput 0 rfl
  | false =>
    rw [jumpGenStage_nonnegative s hN]
    exact matrixInv_andThen _ _ hJ.ensureVerified
      (fun u hu hinv => hinv.emitJump (ensureVerified_done_VERIFIED _ u hu))

theorem MatrixInv.multiplyV (h : MatrixInv s) (m : StoreId) : MatrixInv (multiplyV m s) :=
  h.registers

theorem MatrixInv.clearFault (h : MatrixInv s) : MatrixInv (clearFault s) := by
  unfold Machine.clearFault
  split
  · exact h.fault .none 0 rfl
  · exact h

end

/-! ## Commands, events and steps keep it -/

theorem exec_keeps_matrixInv (i : Instr) (s t : State) (h : MatrixInv s) (ht : exec i s = .next t) : MatrixInv t := by
  cases i <;> injection ht with ht <;> subst ht
  case nop => exact h
  case step => exact h.registers
  case enc => exact h.registers
  case dec => exact h.registers
  case jApply => exact h.registers
  case clrErr => exact h.clearFault
  case buildT => exact h.doBuildT
  case buildK => exact h.ensureT.doBuildK (ensureT_T_VALID s)
  case invK => exact h.ensureK.doInvK (ensureK_K_VALID s)
  case verify =>
    exact matrixInv_andThen _ _ h.ensureKI (fun u hu hinv => hinv.doVerify (ensureKI_done_KI_VALID s u hu))
  case init => exact h.ensureVerified
  case mvmulT => exact h.ensureT.multiplyV .TS
  case mvmulK => exact h.ensureK.multiplyV .KS
  case mvmulKI => exact matrixInv_andThen _ _ h.ensureKI (fun u _ hinv => hinv.multiplyV .KIS)
  case jumpGen => exact h.jumpGenStage

theorem effect_keeps_matrixInv (s t : State) (h : MatrixInv s) (ht : Effect s t) : MatrixInv t := by
  cases ht with
  | same => exact h
  | wroteJ q => exact h.clearedJ q
  | reset => exact matrixInv_resetCore s
  | cleared => exact h.clearFault
  | illegal word hw => exact h.fault .illegalCommand _ ⟨word, rfl, hw⟩
  | command i t hi => exact exec_keeps_matrixInv i s t h hi
  | _ => exact h.registers

/-- Settles O57: every effect of an event keeps the invariant, stage by stage for a command. -/
theorem stepKeepsInv : Obligations.StepKeepsInv := by
  intro s t hs h
  rw [inv_iff] at hs ⊢
  exact step_keeps MatrixInv effect_keeps_matrixInv (fun _ _ h => h.registers) s t hs h

end Sys2Proof.Machine
end

/-! # The content of a store whose flag is 0 cannot be observed (10_state.md R40) -/
section
namespace Sys2Proof.Machine

/-! ## What two states that differ in such content share -/

section
variable {s t : State}

/-- The second state is the first with another memory. -/
theorem SameObservable.eq_withMem (h : SameObservable s t) : ∃ mem, t = { s with mem := mem } := ⟨t.mem, h.rest.symm⟩

theorem SameObservable.storeValid_eq (h : SameObservable s t) (m : StoreId) : storeValid m t = storeValid m s := by
  obtain ⟨mem, rfl⟩ := h.eq_withMem
  cases m <;> rfl

theorem SameObservable.readMatrix_eq (h : SameObservable s t) (m : StoreId) (hm : storeValid m s = true) :
    readMatrix m t = readMatrix m s :=
  readMatrix_congr m t s (fun r hr => (h.stores m hm r hr).symm)

theorem SameObservable.storedJump_eq (h : SameObservable s t) (hT : s.T_VALID = true) (hKI : s.KI_VALID = true)
    (n : Row) : storedJump t n = storedJump s n := by
  rw [storedJump, storedJump, h.readMatrix_eq .TS hT, h.readMatrix_eq .KIS hKI]

/-- Two next states that share all but the memory are alike again if every store valid in them was valid before and
reads as before. -/
theorem SameObservable.of_kept (h : SameObservable s t) (s' t' : State) (hrest : { s' with mem := t'.mem } = t')
    (hvalid : ∀ m, storeValid m s' = true → storeValid m s = true)
    (hs : ∀ m r, storeValid m s' = true → memRead m r s' = memRead m r s)
    (ht : ∀ m r, storeValid m s' = true → memRead m r t' = memRead m r t) : SameObservable s' t' :=
  ⟨hrest, fun m hm r hr => by rw [hs m r hm, ht m r hm, h.stores m (hvalid m hm) r hr]⟩

/-- The same, where one store was written with the same matrix in both. -/
theorem SameObservable.of_written (h : SameObservable s t) (s' t' : State) (m' : StoreId) (M : Matrix)
    (hrest : { s' with mem := t'.mem } = t') (hvalid : ∀ m, m ≠ m' → storeValid m s' = true → storeValid m s = true)
    (hs : s'.mem = memWithMatrix s.mem m' M) (ht : t'.mem = memWithMatrix t.mem m' M) : SameObservable s' t' := by
  refine ⟨hrest, fun m hm r hr => ?_⟩
  by_cases hmm : m = m'
  · subst hmm
    rw [memRead_of_matrix m M s.mem s' r hs hr, memRead_of_matrix m M t.mem t' r ht hr]
  · rw [memRead_of_otherMatrix m' m M s s' r hs hmm, memRead_of_otherMatrix m' m M t t' r ht hmm,
      h.stores m (hvalid m hmm hm) r hr]

/-! ## The port reads alike -/

theorem SameObservable.windowRead_eq (h : SameObservable s t) (a : BitVec 12) : windowRead a s = windowRead a t := by
  unfold windowRead
  cases windowStore (a.extractLsb' 10 2) with
  | none => rfl
  | some m =>
    cases hm : storeValid m s with
    | true =>
      have hrow := h.stores m hm (a.extractLsb' 2 8).toNat (a.extractLsb' 2 8).isLt
      simp only [h.storeValid_eq m, hm, hrow]
    | false => simp only [h.storeValid_eq m, hm]; rfl

theorem SameObservable.readReg_eq (h : SameObservable s t) (r : RegName) : readReg r s = readReg r t := by
  have hwindow := h.windowRead_eq s.MADDR
  obtain ⟨mem, rfl⟩ := h.eq_withMem
  cases r
  case mdata => exact hwindow
  all_goals rfl

theorem SameObservable.portRead_eq (h : SameObservable s t) (idx : PortIndex) : portRead idx s = portRead idx t := by
  unfold portRead
  cases regOfIndex idx with
  | none => rfl
  | some r => exact h.readReg_eq r

/-! ## The stages run alike -/

/-- Two stages end in the same way, in states that differ in unobservable content only. -/
inductive SameStage : Stage → Stage → Prop where
  | done {s t : State} (h : SameObservable s t) : SameStage (.done s) (.done t)
  | raised {s t : State} (h : SameObservable s t) : SameStage (.raised s) (.raised t)

theorem SameStage.stageState {x y : Stage} (h : SameStage x y) : SameObservable (stageState x) (stageState y) := by
  cases h <;> assumption

theorem SameStage.andThen {x y : Stage} {f : State → Stage} (h : SameStage x y)
    (hf : ∀ s t, x = .done s → SameObservable s t → SameStage (f s) (f t)) : SameStage (andThen x f) (andThen y f) := by
  cases h with
  | done h => exact hf _ _ rfl h
  | raised h => exact .raised h

/-- A register update that the memory has no part in. -/
theorem SameObservable.update (h : SameObservable s t) {S : Words4} {V N : Row} {J : Words4}
    {NEG VERIFIED J_VALID : Bool} {ERR_CODE : ErrCode} {ERRINFO : Word} {MADDR : BitVec 12} {pc : Nat}
    {obs : List Observed} :
    SameObservable
      { s with S := S, V := V, N := N, J := J, NEG := NEG, VERIFIED := VERIFIED, J_VALID := J_VALID,
               ERR_CODE := ERR_CODE, ERRINFO := ERRINFO, MADDR := MADDR, pc := pc, obs := obs }
      { t with S := S, V := V, N := N, J := J, NEG := NEG, VERIFIED := VERIFIED, J_VALID := J_VALID,
               ERR_CODE := ERR_CODE, ERRINFO := ERRINFO, MADDR := MADDR, pc := pc, obs := obs } := by
  obtain ⟨mem, rfl⟩ := h.eq_withMem
  exact ⟨rfl, h.stores⟩

theorem SameObservable.doBuildT (h : SameObservable s t) : SameObservable (doBuildT s) (doBuildT t) := by
  obtain ⟨mem, rfl⟩ := h.eq_withMem
  refine h.of_written _ _ .TS tMat rfl (fun m hm hv => ?_) (doBuildT_mem _) (doBuildT_mem _)
  cases m
  · exact absurd rfl hm
  · exact hv
  · exact hv

theorem SameObservable.ensureT (h : SameObservable s t) : SameObservable (ensureT s) (ensureT t) := by
  have hT : t.T_VALID = s.T_VALID := h.storeValid_eq .TS
  rcases ensureT_cases s with ⟨hs, e⟩ | ⟨hs, e⟩
  · rw [e, ensureT_valid t (hT.trans hs)]; exact h
  · rw [e, ensureT_invalid t (hT.trans hs)]; exact h.doBuildT

theorem SameObservable.doBuildK (h : SameObservable s t) (hT : s.T_VALID = true) :
    SameObservable (doBuildK s) (doBuildK t) := by
  have hread := h.readMatrix_eq .TS hT
  have ht := doBuildK_mem t
  rw [hread] at ht
  obtain ⟨mem, rfl⟩ := h.eq_withMem
  refine h.of_written _ _ .KS _ rfl (fun m hm hv => ?_) (doBuildK_mem _) ht
  cases m
  · exact hv
  · exact absurd rfl hm
  · exact hv

theorem SameObservable.ensureK (h : SameObservable s t) : SameObservable (ensureK s) (ensureK t) := by
  have hK : (Machine.ensureT t).K_VALID = (Machine.ensureT s).K_VALID := h.ensureT.storeValid_eq .KS
  rcases ensureK_cases s with ⟨hs, e⟩ | ⟨hs, e⟩ <;> rcases ensureK_cases t with ⟨ht, e'⟩ | ⟨ht, e'⟩
  · rw [e, e']; exact h.ensureT
  · exact absurd (hs.symm.trans (hK.symm.trans ht)) (by decide)
  · exact absurd (hs.symm.trans (hK.symm.trans ht)) (by decide)
  · rw [e, e']; exact h.ensureT.doBuildK (ensureT_T_VALID s)

theorem SameObservable.doInvK (h : SameObservable s t) (hK : s.K_VALID = true) :
    SameStage (doInvK s) (doInvK t) := by
  have hread := h.readMatrix_eq .KS hK
  rcases doInvK_cases s with ⟨c, hc, e⟩ | ⟨x, hx, e⟩
  · rw [e, doInvK_fail t c (hread ▸ hc)]
    obtain ⟨mem, rfl⟩ := h.eq_withMem
    have hKIS : ∀ m, storeValid m (loseKIS (invStart s)) = true → m ≠ .KIS := by
      rintro m hm rfl; exact absurd hm Bool.false_ne_true
    refine .raised (h.of_kept _ _ rfl (fun m hm => ?_) (fun m r hm => ?_) (fun m r hm => ?_))
    · cases m
      · exact hm
      · exact hm
      · exact absurd rfl (hKIS _ hm)
    · exact memRead_loseKIS m r (invStart s) (hKIS m hm)
    · exact memRead_loseKIS m r (invStart { s with mem := mem }) (hKIS m hm)
  · rw [e, doInvK_ok t x (hread ▸ hx)]
    obtain ⟨mem, rfl⟩ := h.eq_withMem
    refine .done (h.of_written _ _ .KIS x rfl (fun m hm hv => ?_) rfl rfl)
    cases m
    · exact hv
    · exact hv
    · exact absurd rfl hm

theorem SameObservable.ensureKI (h : SameObservable s t) : SameStage (ensureKI s) (ensureKI t) := by
  have hKI : (Machine.ensureK t).KI_VALID = (Machine.ensureK s).KI_VALID := h.ensureK.storeValid_eq .KIS
  rcases ensureKI_cases s with ⟨hs, e⟩ | ⟨hs, e⟩ <;> rcases ensureKI_cases t with ⟨ht, e'⟩ | ⟨ht, e'⟩
  · rw [e, e']; exact .done h.ensureK
  · exact absurd (hs.symm.trans (hKI.symm.trans ht)) (by decide)
  · exact absurd (hs.symm.trans (hKI.symm.trans ht)) (by decide)
  · rw [e, e']; exact h.ensureK.doInvK (ensureK_K_VALID s)

theorem SameObservable.doVerify (h : SameObservable s t) (hT : s.T_VALID = true) (hKI : s.KI_VALID = true) :
    SameStage (doVerify s) (doVerify t) := by
  have hjump := h.storedJump_eq hT hKI
  rcases doVerify_cases s with ⟨h1, e⟩ | ⟨h1, h2, e⟩ | ⟨h1, h2, e⟩
  · rw [e, doVerify_first_differs t (fun h' => h1 ((hjump (basisRow 128)).symm.trans h'))]
    obtain ⟨mem, rfl⟩ := h.eq_withMem
    exact .raised h.update
  · rw [e, doVerify_second_differs t ((hjump _).trans h1)
      (fun h' => h2 ((hjump (basisRow 192)).symm.trans h'))]
    obtain ⟨mem, rfl⟩ := h.eq_withMem
    exact .raised h.update
  · rw [e, doVerify_agrees t ((hjump _).trans h1) ((hjump _).trans h2)]
    obtain ⟨mem, rfl⟩ := h.eq_withMem
    exact .done h.update

theorem SameObservable.ensureVerified (h : SameObservable s t) : SameStage (ensureVerified s) (ensureVerified t) := by
  refine h.ensureKI.andThen (fun u v hu huv => ?_)
  have hV : v.VERIFIED = u.VERIFIED := by
    obtain ⟨mem, rfl⟩ := huv.eq_withMem
    rfl
  rw [hV]
  split
  · exact .done huv
  · exact huv.doVerify (ensureKI_done_T_VALID s u hu) (ensureKI_done_KI_VALID s u hu)

theorem SameObservable.multiplyV (h : SameObservable s t) (m : StoreId) (hm : storeValid m s = true) :
    SameObservable (multiplyV m s) (multiplyV m t) := by
  have e : Machine.multiplyV m t = { t with V := matVec (readMatrix m s) t.V } := by
    rw [Machine.multiplyV, h.readMatrix_eq m hm]
  rw [e]
  obtain ⟨mem, rfl⟩ := h.eq_withMem
  exact h.update

theorem SameObservable.emitJump (h : SameObservable s t) (hT : s.T_VALID = true) (hKI : s.KI_VALID = true) :
    SameObservable (emitJump s) (emitJump t) := by
  have e : Machine.emitJump t = { t with J := storedJump s t.N, J_VALID := true } := by
    rw [← h.storedJump_eq hT hKI]; rfl
  rw [e]
  obtain ⟨mem, rfl⟩ := h.eq_withMem
  exact h.update

theorem SameObservable.jumpGenStage (h : SameObservable s t) : SameStage (jumpGenStage s) (jumpGenStage t) := by
  have hJ : SameObservable { s with J_VALID := false } { t with J_VALID := false } := by
    obtain ⟨mem, rfl⟩ := h.eq_withMem
    exact h.update
  have hNEG : t.NEG = s.NEG := by
    obtain ⟨mem, rfl⟩ := h.eq_withMem
    rfl
  cases hN : s.NEG with
  | true =>
    rw [jumpGenStage_negative s hN, jumpGenStage_negative t (hNEG.trans hN)]
    obtain ⟨mem, rfl⟩ := h.eq_withMem
    exact .raised h.update
  | false =>
    rw [jumpGenStage_nonnegative s hN, jumpGenStage_nonnegative t (hNEG.trans hN)]
    refine hJ.ensureVerified.andThen (fun u v hu huv => ?_)
    obtain ⟨hT, hKI⟩ := ensureVerified_done_valid _ u hu
    exact .done (huv.emitJump hT hKI)

theorem SameObservable.clearFault (h : SameObservable s t) : SameObservable (clearFault s) (clearFault t) := by
  obtain ⟨mem, rfl⟩ := h.eq_withMem
  unfold Machine.clearFault
  split
  · exact h.update
  · exact h

theorem SameObservable.resetCore (h : SameObservable s t) : SameObservable (resetCore s) (resetCore t) := by
  obtain ⟨mem, rfl⟩ := h.eq_withMem
  refine ⟨rfl, fun m hm => ?_⟩
  cases m <;> exact absurd hm Bool.false_ne_true

/-! ## Commands, events and steps run alike -/

/-- Two outcomes are the same stop, or next states that differ in unobservable content only. -/
inductive SameOutcome : Host.Outcome State Fault Refusal → Host.Outcome State Fault Refusal → Prop where
  | next {s t : State} (h : SameObservable s t) : SameOutcome (.next s) (.next t)
  | fault (f : Fault) : SameOutcome (.fault f) (.fault f)
  | refused (r : Refusal) : SameOutcome (.refused r) (.refused r)

theorem SameObservable.exec (h : SameObservable s t) (i : Instr) : SameOutcome (exec i s) (exec i t) := by
  cases i
  case step | enc | dec | jApply =>
    obtain ⟨mem, rfl⟩ := h.eq_withMem
    exact .next h.update
  case nop => exact .next h
  case clrErr => exact .next h.clearFault
  case buildT => exact .next h.doBuildT
  case buildK => exact .next (h.ensureT.doBuildK (ensureT_T_VALID s))
  case invK => exact .next (h.ensureK.doInvK (ensureK_K_VALID s)).stageState
  case verify =>
    exact .next (h.ensureKI.andThen (fun u v hu huv =>
      huv.doVerify (ensureKI_done_T_VALID s u hu) (ensureKI_done_KI_VALID s u hu))).stageState
  case init => exact .next h.ensureVerified.stageState
  case mvmulT => exact .next (h.ensureT.multiplyV .TS (ensureT_T_VALID s))
  case mvmulK => exact .next (h.ensureK.multiplyV .KS (ensureK_K_VALID s))
  case mvmulKI =>
    exact .next (h.ensureKI.andThen (fun u v hu huv =>
      .done (huv.multiplyV .KIS (ensureKI_done_KI_VALID s u hu)))).stageState
  case jumpGen => exact .next h.jumpGenStage.stageState

theorem SameObservable.runCommand (h : SameObservable s t) (word : CmdWord) :
    SameOutcome (runCommand word s) (runCommand word t) := by
  have herr : t.ERR_CODE = s.ERR_CODE := by
    obtain ⟨mem, rfl⟩ := h.eq_withMem
    rfl
  unfold Machine.runCommand
  rw [herr]
  split
  · split
    · exact h.exec .clrErr
    · exact .next h
  · split
    · obtain ⟨mem, rfl⟩ := h.eq_withMem
      exact .next h.update
    · exact h.exec _

theorem SameObservable.writeReg (h : SameObservable s t) (r : RegName) (d : Word) :
    SameOutcome (writeReg r d s) (writeReg r d t) := by
  cases r
  case cmd => exact h.runCommand _
  case ctrl =>
    cases hd : d.getLsbD 0 with
    | true => simp only [Machine.writeReg, hd]; exact .next h.resetCore
    | false => simp only [Machine.writeReg, hd]; exact .next h
  all_goals
    obtain ⟨mem, rfl⟩ := h.eq_withMem
    exact .next h.update

theorem SameObservable.portWrite (h : SameObservable s t) (idx : PortIndex) (d : Word) :
    SameOutcome (portWrite idx d s) (portWrite idx d t) := by
  unfold Machine.portWrite
  split
  · exact .next h
  · exact h.writeReg _ d

theorem SameObservable.observe (h : SameObservable s t) (o : Observed) :
    SameObservable (observe o s) (observe o t) := by
  obtain ⟨mem, rfl⟩ := h.eq_withMem
  exact h.update

theorem SameOutcome.busAccess {x y : Host.Outcome State Fault Refusal} (h : SameOutcome x y) (offset size : Nat) :
    SameOutcome (busAccess offset size x) (busAccess offset size y) := by
  unfold Machine.busAccess
  split
  · exact .refused _
  · split
    · exact .refused _
    · exact h

theorem SameObservable.perform (h : SameObservable s t) (e : HostEvent) : SameOutcome (perform e s) (perform e t) := by
  cases e with
  | portRead idx =>
    rw [Machine.perform, h.portRead_eq idx]
    exact .next (h.observe _)
  | portWrite idx d => exact h.portWrite idx d
  | rstN => exact .next h.resetCore
  | busRead offset size =>
    rw [Machine.perform, h.portRead_eq]
    exact SameOutcome.busAccess (.next (h.observe _)) offset size
  | busWrite offset bytes => exact (h.portWrite _ _).busAccess offset _

theorem SameOutcome.advance {x y : Host.Outcome State Fault Refusal} (h : SameOutcome x y) :
    SameOutcome (advance x) (advance y) := by
  cases h with
  | next h =>
    obtain ⟨mem, rfl⟩ := h.eq_withMem
    exact .next h.update
  | fault f => exact .fault f
  | refused r => exact .refused r

theorem SameObservable.step (h : SameObservable s t) : SameOutcome (step s) (step t) := by
  have hevent : t.script[t.pc]? = s.script[s.pc]? := by
    obtain ⟨mem, rfl⟩ := h.eq_withMem
    rfl
  cases he : s.script[s.pc]? with
  | none => rw [step_ended s he, step_ended t (hevent.trans he)]; exact .fault _
  | some e => rw [step_event s e he, step_event t e (hevent.trans he)]; exact (h.perform e).advance

end

/-- Settles O59: every stage reads a store only where its flag is 1, so the steps run alike. -/
theorem invalidStoreContentIsUnobservable : Obligations.InvalidStoreContentIsUnobservable := by
  intro s t h
  have hstep : SameOutcome (step s) (step t) := h.step
  refine ⟨h.portRead_eq, fun s' hs => ?_, fun f hs => ?_, fun r hs => ?_⟩ <;> rw [hs] at hstep <;>
    generalize step t = y at hstep ⊢ <;> cases hstep
  · exact ⟨_, rfl, ‹_›⟩
  · rfl
  · rfl

end Sys2Proof.Machine
end

/-! # The decoder accepts words of the table only (30_encoding.md R73, R75) -/
section
namespace Sys2Proof

theorem fields_append (w : CmdWord) : fieldZ w ++ fieldM w ++ fieldOp w = w := by
  apply BitVec.eq_of_getLsbD_eq
  intro i hi
  simp only [BitVec.getLsbD_append, fieldZ, fieldM, fieldOp, BitVec.getLsbD_extractLsb']
  split_ifs with h1 h2
  · simp [h1]
  · have hi' : 8 + (i - 8) = i := by omega
    simp [h2, hi']
  · have hi' : 10 + (i - 8 - 2) = i := by omega
    have hlt : i - 8 - 2 < 22 := by omega
    simp [hlt, hi']

/-- The `op` of a command other than MVMUL is its own, and its `m` is 0, 30_encoding.md R73. -/
theorem plainOp_some (op : BitVec 8) (i : Instr) (h : plainOp op = some i) : op = opField i ∧ mField i = 0 := by
  unfold plainOp at h
  split at h <;> cases h <;> exact ⟨BitVec.eq_of_toNat_eq ‹_›, rfl⟩

theorem mvmulOf_ok (m : BitVec 2) (i : Instr) (h : mvmulOf m = .ok i) : m = mField i ∧ opField i = 0x20#8 := by
  unfold mvmulOf at h
  split at h <;> cases h <;> exact ⟨BitVec.eq_of_toNat_eq ‹_›, rfl⟩

/-- A word that decodes to a command has the fields of that command. -/
theorem encode_of_decode (w : CmdWord) (i : Instr) (h : decode w = .ok i) : encode i = w := by
  have hfields : fieldZ w = 0 ∧ fieldM w = mField i ∧ fieldOp w = opField i := by
    unfold decode at h
    split at h
    · cases h
    · next hz =>
      refine ⟨not_not.mp hz, ?_⟩
      split at h
      · next hop =>
        obtain ⟨hm, hi⟩ := mvmulOf_ok _ i h
        exact ⟨hm, hop.trans hi.symm⟩
      · split at h
        · cases h
        · next j hj =>
          split at h
          · next hm =>
            cases h
            obtain ⟨hop, hi⟩ := plainOp_some _ _ hj
            exact ⟨hm.trans hi.symm, hop⟩
          · cases h
  obtain ⟨hz, hm, hop⟩ := hfields
  rw [← fields_append w, hz, hm, hop]
  rfl

theorem encode_eq_tableWord (i : Instr) : encode i = Spec.tableWord i := by
  cases i <;> rfl

theorem eq_tableWord_of_decode (w : CmdWord) (i : Instr) (h : decode w = .ok i) : w = Spec.tableWord i := by
  rw [← encode_eq_tableWord, encode_of_decode w i h]

end Sys2Proof
end

/-! # Which command and which host access changes each flag (10_state.md R28, R29) -/
section
namespace Sys2Proof.Machine

/-! ## The table of the flags, flag by flag -/

section
variable (inv agree : Bool) (f : FlagValues)

theorem FlagValues.ensuredKI_eq : f.ensuredKI inv =
    ⟨true, true, f.KI_VALID || inv, f.KI_VALID && f.VERIFIED, f.KI_VALID && f.J_VALID, f.NEG⟩ := by
  cases h : f.KI_VALID with
  | true => rw [FlagValues.ensuredKI_valid inv f h, FlagValues.ensuredK, h]; rfl
  | false => rw [FlagValues.ensuredKI_missing inv f h]; rfl

theorem FlagValues.afterVerify_eq : f.afterVerify inv agree =
    ⟨true, true, f.KI_VALID || inv, (f.KI_VALID || inv) && agree,
      f.J_VALID && f.KI_VALID && ((f.KI_VALID || inv) && agree), f.NEG⟩ := by
  unfold FlagValues.afterVerify
  rw [FlagValues.ensuredKI_eq]
  cases f.KI_VALID <;> cases inv <;> simp [FlagValues.checked]

theorem FlagValues.ensuredVerified_eq : f.ensuredVerified inv agree =
    ⟨true, true, f.KI_VALID || inv, f.KI_VALID && f.VERIFIED || (f.KI_VALID || inv) && agree,
      f.J_VALID && f.KI_VALID && (f.KI_VALID && f.VERIFIED || (f.KI_VALID || inv) && agree), f.NEG⟩ := by
  unfold FlagValues.ensuredVerified
  rw [FlagValues.ensuredKI_eq]
  cases f.KI_VALID <;> cases f.VERIFIED <;> cases inv <;> simp [FlagValues.checked]

theorem FlagValues.jumpGenerated_eq : f.jumpGenerated inv agree =
    if f.NEG then { f with J_VALID := false }
    else ⟨true, true, f.KI_VALID || inv, f.KI_VALID && f.VERIFIED || (f.KI_VALID || inv) && agree,
      f.KI_VALID && f.VERIFIED || (f.KI_VALID || inv) && agree, f.NEG⟩ := by
  unfold FlagValues.jumpGenerated
  rw [FlagValues.ensuredVerified_eq]
  rfl

end

/-- The table of 10_state.md R28 written out: the six flags after a command, each from the flags before it, from `inv`,
whether the elimination of store `KS` succeeds, and from `agree`, whether both constants are the reference constants. -/
def flagTable (inv agree : Bool) (i : Instr) (f : FlagValues) : FlagValues :=
  let ki := f.KI_VALID || inv
  let v := f.KI_VALID && f.VERIFIED || ki && agree
  match i with
  | .nop => f
  | .step => f
  | .enc => f
  | .dec => f
  | .jApply => f
  | .clrErr => f
  | .buildT => { f with T_VALID := true }
  | .mvmulT => { f with T_VALID := true }
  | .buildK => { f with T_VALID := true, K_VALID := true }
  | .mvmulK => { f with T_VALID := true, K_VALID := true }
  | .invK => ⟨true, true, inv, false, false, f.NEG⟩
  | .mvmulKI => ⟨true, true, ki, f.KI_VALID && f.VERIFIED, f.KI_VALID && f.J_VALID, f.NEG⟩
  | .verify => ⟨true, true, ki, ki && agree, f.J_VALID && f.KI_VALID && (ki && agree), f.NEG⟩
  | .init => ⟨true, true, ki, v, f.J_VALID && f.KI_VALID && v, f.NEG⟩
  | .jumpGen => if f.NEG then { f with J_VALID := false } else ⟨true, true, ki, v, v, f.NEG⟩

theorem flagsAfter_eq_flagTable (inv agree : Bool) (i : Instr) (f : FlagValues) :
    flagsAfter inv agree i f = flagTable inv agree i f := by
  cases i
  case mvmulKI => exact FlagValues.ensuredKI_eq inv f
  case verify => exact FlagValues.afterVerify_eq inv agree f
  case init => exact FlagValues.ensuredVerified_eq inv agree f
  case jumpGen => exact FlagValues.jumpGenerated_eq inv agree f
  all_goals rfl

/-! Each clause of 10_state.md R28 is read off the rows of the table that its hypotheses select. -/

section
variable {inv agree : Bool} {i : Instr} {f g : FlagValues} (hg : g = flagTable inv agree i f)
include hg

theorem flagTable_idle (hi : i ∈ [Instr.nop, .step, .enc, .dec, .jApply, .clrErr]) : g = f := by
  cases i <;> simp_all [flagTable]

theorem flagTable_NEG : g.NEG = f.NEG := by
  subst hg
  cases i
  case jumpGen => rw [flagTable]; split <;> rfl
  all_goals rfl

theorem flagTable_jumpGen_negative (hi : i = .jumpGen) (hN : f.NEG = true) : g = { f with J_VALID := false } := by
  simp_all [flagTable]

theorem flagTable_sets_T (hi : i ∉ [Instr.nop, .step, .enc, .dec, .jApply, .clrErr])
    (hN : ¬ (i = .jumpGen ∧ f.NEG = true)) : g.T_VALID = true := by
  cases i <;> simp_all [flagTable]

theorem flagTable_sets_K
    (hi : i ∈ [Instr.buildK, .mvmulK, .invK, .verify, .init, .mvmulKI] ∨ (i = .jumpGen ∧ f.NEG = false)) :
    g.K_VALID = true := by
  cases i <;> simp_all [flagTable]

/-- No command clears `T_VALID` or `K_VALID`. -/
theorem flagTable_keeps_T_K : (f.T_VALID = true → g.T_VALID = true) ∧ (f.K_VALID = true → g.K_VALID = true) := by
  subst hg
  cases i
  case jumpGen =>
    rw [flagTable]
    split
    · exact ⟨id, id⟩
    · exact ⟨fun _ => rfl, fun _ => rfl⟩
  all_goals simp [flagTable]

theorem flagTable_buildT_keeps_K (hi : i ∈ [Instr.buildT, .mvmulT]) : g.K_VALID = f.K_VALID := by
  cases i <;> simp_all [flagTable]

theorem flagTable_builders (hi : i ∈ [Instr.buildT, .mvmulT, .buildK, .mvmulK]) :
    g.KI_VALID = f.KI_VALID ∧ g.VERIFIED = f.VERIFIED ∧ g.J_VALID = f.J_VALID := by
  cases i <;> simp_all [flagTable]

theorem flagTable_invK (hi : i = .invK) : g.KI_VALID = true ↔ inv = true := by
  subst hi hg
  exact Iff.rfl

theorem flagTable_KI (hi : i ∈ [Instr.verify, .init, .mvmulKI] ∨ (i = .jumpGen ∧ f.NEG = false)) :
    g.KI_VALID = true ↔ f.KI_VALID = true ∨ inv = true := by
  cases i <;> simp_all [flagTable]

theorem flagTable_inversion_clears (hi : i = .invK ∨ (i = .mvmulKI ∧ f.KI_VALID = false)) :
    g.VERIFIED = false ∧ g.J_VALID = false := by
  subst hg
  rcases hi with rfl | ⟨rfl, hKI⟩
  · exact ⟨rfl, rfl⟩
  · simp [flagTable, hKI]

theorem flagTable_mvmulKI_valid (hi : i = .mvmulKI ∧ f.KI_VALID = true) :
    g.KI_VALID = true ∧ g.VERIFIED = f.VERIFIED ∧ g.J_VALID = f.J_VALID := by
  obtain ⟨rfl, hKI⟩ := hi
  simp [hg, flagTable, hKI]

theorem flagTable_verify (hi : i = .verify) : g.VERIFIED = true ↔ g.KI_VALID = true ∧ agree = true := by
  subst hi hg
  exact Bool.and_eq_true_iff

theorem flagTable_VERIFIED (hi : i = .init ∨ (i = .jumpGen ∧ f.NEG = false)) :
    g.VERIFIED = true ↔ (f.KI_VALID = true ∧ f.VERIFIED = true) ∨ (g.KI_VALID = true ∧ agree = true) := by
  rcases hi with rfl | ⟨rfl, hN⟩
  · simp [hg, flagTable]
  · simp [hg, flagTable, hN]

/-- Only JUMPGEN sets `J_VALID`. -/
theorem flagTable_J_not_set (hi : i ≠ .jumpGen) (hJ : g.J_VALID = true) : f.J_VALID = true := by
  cases i <;> simp_all [flagTable]

theorem flagTable_jumpGen_J (hi : i = .jumpGen) : g.J_VALID = true ↔ f.NEG = false ∧ g.VERIFIED = true := by
  cases hN : f.NEG <;> simp_all [flagTable]

theorem flagTable_J_kept (hi : i ∈ [Instr.verify, .init]) :
    g.J_VALID = (f.J_VALID && f.KI_VALID && g.VERIFIED) := by
  cases i <;> simp_all [flagTable]

end

/-! ## Commands -/

theorem flagsOf_exec_table (i : Instr) (s t : State) (h : exec i s = .next t) :
    flagsOf t = flagTable (inverts t) (agrees t) i (flagsOf s) := by
  rw [← flagsAfter_eq_flagTable, flagsOf_exec i s t h]

theorem ensureT_ERR_CODE (s : State) : (ensureT s).ERR_CODE = s.ERR_CODE := by
  rcases ensureT_cases s with ⟨_, e⟩ | ⟨_, e⟩ <;> rw [e]
  rfl

theorem ensureK_ERR_CODE (s : State) : (ensureK s).ERR_CODE = s.ERR_CODE := by
  rcases ensureK_cases s with ⟨_, e⟩ | ⟨_, e⟩ <;> rw [e]
  · exact ensureT_ERR_CODE s
  · exact ensureT_ERR_CODE s

theorem doInvK_done_ERR_CODE (s u : State) (h : doInvK s = .done u) : u.ERR_CODE = s.ERR_CODE := by
  rcases doInvK_cases s with ⟨_, _, e⟩ | ⟨_, _, e⟩ <;> rw [h] at e <;> cases e
  rfl

theorem ensureKI_done_ERR_CODE (s u : State) (h : ensureKI s = .done u) : u.ERR_CODE = s.ERR_CODE := by
  rcases ensureKI_cases s with ⟨_, e⟩ | ⟨_, e⟩ <;> rw [h] at e
  · cases e; exact ensureK_ERR_CODE s
  · exact (doInvK_done_ERR_CODE _ u e.symm).trans (ensureK_ERR_CODE s)

theorem doVerify_done_ERR_CODE (s u : State) (h : doVerify s = .done u) : u.ERR_CODE = s.ERR_CODE := by
  rcases doVerify_cases s with ⟨_, e⟩ | ⟨_, _, e⟩ | ⟨_, _, e⟩ <;> rw [h] at e <;> cases e
  rfl

theorem ensureVerified_done_ERR_CODE (s u : State) (h : ensureVerified s = .done u) : u.ERR_CODE = s.ERR_CODE := by
  cases hKI : ensureKI s with
  | raised v => rw [ensureVerified_raised s v hKI] at h; cases h
  | done v =>
    have hv := ensureKI_done_ERR_CODE s v hKI
    rw [ensureVerified_done s v hKI] at h
    split at h
    · cases h; exact hv
    · exact (doVerify_done_ERR_CODE v u h).trans hv

/-- A JUMPGEN that emits records no fault, 43_jump.md R131. -/
theorem jumpGen_emits_no_fault (s t : State) (h : exec .jumpGen s = .next t) (hJ : t.J_VALID = true) :
    t.ERR_CODE = s.ERR_CODE := by
  obtain ⟨hN, hV⟩ := (flagTable_jumpGen_J (flagsOf_exec_table .jumpGen s t h) rfl).mp hJ
  injection h with h
  rw [jumpGenStage_nonnegative s hN] at h
  obtain ⟨u, _, ⟨e, _⟩ | ⟨e, hu⟩⟩ := ensureVerified_split { s with J_VALID := false } <;> rw [e] at h <;> subst h
  · exact ensureVerified_done_ERR_CODE { s with J_VALID := false } u e
  · exact absurd (hu.symm.trans hV) Bool.false_ne_true

/-! ## Host accesses -/

/-- A word that is dropped or illegal changes no flag, 20_memory.md R57. -/
theorem flagsOf_cmd_without_command (s t : State) (d : Word)
    (hd : s.ERR_CODE ≠ .none ∨ ∀ i, d.extractLsb' 0 32 ≠ Sys2Proof.Spec.tableWord i)
    (h : portWrite 0x00#8 d s = .next t) : flagsOf t = flagsOf s := by
  rw [portWrite_cmd, BitVec.setWidth_eq_extractLsb' (by decide)] at h
  rcases runCommand_cases (d.extractLsb' 0 32) s with
    ⟨_, _, hr⟩ | ⟨_, _, hr⟩ | ⟨_, _, hr⟩ | ⟨he, i, hi, hr⟩ <;> rw [hr] at h
  · cases h; exact flagsOf_clearFault s
  · cases h; rfl
  · cases h; rfl
  · rcases hd with hd | hd
    · exact absurd he hd
    · exact absurd (eq_tableWord_of_decode _ i hi) (hd i)

/-- The index of a register, 10_state.md R42. -/
theorem indexOfReg_of_regOfIndex (idx : PortIndex) (r : RegName) (h : regOfIndex idx = some r) :
    indexOfReg r = idx := by
  have hall : ∀ x : BitVec 8, (regOfIndex x).all (fun r => indexOfReg r == x) = true := by decide
  have hidx := hall idx
  rw [h] at hidx
  simpa using hidx

/-- The reserved indices are `0x20..0xFF`, 10_state.md R42. -/
theorem reserved_index (idx : PortIndex) (h : regOfIndex idx = none) : 0x20 ≤ idx.toNat := by
  have hall : ∀ x : BitVec 8, regOfIndex x = none → 0x20 ≤ x.toNat := by decide
  exact hall idx h

/-- The indices `0x14..0x17` are the words of `J`. -/
theorem indexOfReg_mem_J (r : RegName) :
    (0x14 ≤ (indexOfReg r).toNat ∧ (indexOfReg r).toNat ≤ 0x17) ↔ ∃ w, r = .j w := by
  cases r
  case n w | s w | v w | j w | ref128 w | ref192 w => revert w; decide
  all_goals decide

/-- Index `0x05` is `NCTL`. -/
theorem indexOfReg_eq_nctl (r : RegName) : indexOfReg r = 0x05#8 ↔ r = .nctl := by
  cases r
  case n w | s w | v w | j w | ref128 w | ref192 w => revert w; decide
  all_goals decide

/-- A write to `NCTL` changes `NEG`, a write to a word of `J` clears `J_VALID`, and no other register write changes a
flag, 20_memory.md R56. -/
theorem flagsOf_portWrite (s t : State) (idx : PortIndex) (d : Word) (hcmd : idx ≠ 0x00#8) (hctrl : idx ≠ 0x04#8)
    (h : portWrite idx d s = .next t) :
    flagsOf t = { flagsOf s with
      J_VALID := if 0x14 ≤ idx.toNat ∧ idx.toNat ≤ 0x17 then false else s.J_VALID
      NEG := if idx = 0x05#8 then d.getLsbD 0 else s.NEG } := by
  unfold portWrite at h
  cases hr : regOfIndex idx with
  | none =>
    have hidx := reserved_index idx hr
    have h5 : idx ≠ 0x05#8 := by rintro rfl; exact absurd hidx (by decide)
    rw [hr] at h
    cases h
    rw [if_neg (by omega), if_neg h5]
    rfl
  | some r =>
    obtain rfl := indexOfReg_of_regOfIndex idx r hr
    rw [hr] at h
    simp only [indexOfReg_mem_J, indexOfReg_eq_nctl]
    cases r
    case cmd => exact absurd rfl hcmd
    case ctrl => exact absurd rfl hctrl
    all_goals cases h; simp [flagsOf]

theorem flagsOf_portWrite_ctrl (s t : State) (d : Word) (h : portWrite 0x04#8 d s = .next t) :
    flagsOf t = if d.getLsbD 0 then ⟨false, false, false, false, false, false⟩ else flagsOf s := by
  injection h with h
  rw [← h]
  split
  · exact flagsOf_resetCore s
  · rfl

/-- Settles O53: the flags after a command are those of `flagTable`, and each host access changes its own. -/
theorem flagsChangeOnlyByTheirStages : Obligations.FlagsChangeOnlyByTheirStages := by
  refine ⟨fun i s => ?_, flagsOf_cmd_without_command, fun s t idx h => ?_, flagsOf_portWrite, fun s t h => ?_,
    flagsOf_portWrite_ctrl⟩
  · obtain ⟨t, ht⟩ := exec_next i s
    have hg := flagsOf_exec_table i s t ht
    obtain ⟨hT, hK⟩ := flagTable_keeps_T_K hg
    simp only [← inverts_iff, ← agrees_iff]
    exact ⟨t, ht, flagTable_NEG hg, flagTable_idle hg, flagTable_jumpGen_negative hg, flagTable_sets_T hg,
      flagTable_buildT_keeps_K hg, flagTable_sets_K hg, hT, hK, flagTable_builders hg, flagTable_invK hg,
      flagTable_KI hg, flagTable_inversion_clears hg, flagTable_mvmulKI_valid hg, flagTable_verify hg,
      flagTable_VERIFIED hg, flagTable_J_not_set hg, flagTable_jumpGen_J hg,
      fun hi => jumpGen_emits_no_fault s t (hi ▸ ht), flagTable_J_kept hg⟩
  · cases h; rfl
  · cases h; rfl

end Sys2Proof.Machine
end

/-! # Which data registers a command reads and writes (10_state.md R25) -/
section
namespace Sys2Proof.Machine

/-- The registers of 10_state.md R25, with `MADDR`, which no command touches. -/
structure DataRegs where
  S : Words4
  V : Row
  N : Row
  J : Words4
  NEG : Bool
  MADDR : BitVec 12

/-- The data registers of a state. -/
def dataOf (s : State) : DataRegs := ⟨s.S, s.V, s.N, s.J, s.NEG, s.MADDR⟩

/-- The state with the data registers `d`. -/
def setData (d : DataRegs) (s : State) : State :=
  { s with S := d.S, V := d.V, N := d.N, J := d.J, NEG := d.NEG, MADDR := d.MADDR }

/-- The state with its data registers changed by `F`, and nothing else changed. -/
def onData (F : DataRegs → DataRegs) (s : State) : State := setData (F (dataOf s)) s

/-- A stage with the data registers of the state it leaves changed. -/
def Stage.onData (F : DataRegs → DataRegs) : Stage → Stage
  | .done s => .done (Machine.onData F s)
  | .raised s => .raised (Machine.onData F s)

@[simp] theorem stageState_onData (F : DataRegs → DataRegs) (x : Stage) :
    stageState (x.onData F) = onData F (stageState x) := by
  cases x <;> rfl

/-! ## The stages touch no data register: they run the same whatever the registers hold -/

section
variable (F : DataRegs → DataRegs) (s : State)

theorem readMatrix_onData (m : StoreId) : readMatrix m (onData F s) = readMatrix m s :=
  readMatrix_of_mem m s _ rfl

theorem storedJump_onData (n : Row) : storedJump (onData F s) n = storedJump s n := by
  rw [storedJump, storedJump, readMatrix_onData, readMatrix_onData]

theorem doBuildK_onData : doBuildK (onData F s) = onData F (doBuildK s) := by
  rw [doBuildK_eq, readMatrix_onData, doBuildK_eq]; rfl

theorem ensureT_onData : ensureT (onData F s) = onData F (ensureT s) := by
  rcases ensureT_cases s with ⟨h, e⟩ | ⟨h, e⟩ <;> rw [e]
  · exact ensureT_valid (onData F s) h
  · exact ensureT_invalid (onData F s) h

theorem ensureK_onData : ensureK (onData F s) = onData F (ensureK s) := by
  have hT := ensureT_onData F s
  have hK : (ensureT (onData F s)).K_VALID = (ensureT s).K_VALID := by rw [hT]; rfl
  rcases ensureK_cases s with ⟨h, e⟩ | ⟨h, e⟩ <;> rcases ensureK_cases (onData F s) with ⟨h', e'⟩ | ⟨h', e'⟩
  · rw [e, e', hT]
  · exact absurd (h.symm.trans (hK.symm.trans h')) (by decide)
  · exact absurd (h.symm.trans (hK.symm.trans h')) (by decide)
  · rw [e, e', hT, doBuildK_onData]

theorem doInvK_onData : doInvK (onData F s) = (doInvK s).onData F := by
  have hread := readMatrix_onData F s .KS
  rcases doInvK_cases s with ⟨c, h, e⟩ | ⟨x, h, e⟩ <;> rw [e]
  · exact doInvK_fail (onData F s) c (hread ▸ h)
  · exact doInvK_ok (onData F s) x (hread ▸ h)

theorem ensureKI_onData : ensureKI (onData F s) = (ensureKI s).onData F := by
  have hK := ensureK_onData F s
  have hKI : (ensureK (onData F s)).KI_VALID = (ensureK s).KI_VALID := by rw [hK]; rfl
  rcases ensureKI_cases s with ⟨h, e⟩ | ⟨h, e⟩ <;> rcases ensureKI_cases (onData F s) with ⟨h', e'⟩ | ⟨h', e'⟩
  · rw [e, e', hK]; rfl
  · exact absurd (h.symm.trans (hKI.symm.trans h')) (by decide)
  · exact absurd (h.symm.trans (hKI.symm.trans h')) (by decide)
  · rw [e, e', hK, doInvK_onData]

theorem doVerify_onData : doVerify (onData F s) = (doVerify s).onData F := by
  have hjump := storedJump_onData F s
  rcases doVerify_cases s with ⟨h1, e⟩ | ⟨h1, h2, e⟩ | ⟨h1, h2, e⟩ <;> rw [e]
  · exact doVerify_first_differs (onData F s) (fun h' => h1 ((hjump _).symm.trans h'))
  · exact doVerify_second_differs (onData F s) ((hjump _).trans h1) (fun h' => h2 ((hjump _).symm.trans h'))
  · exact doVerify_agrees (onData F s) ((hjump _).trans h1) ((hjump _).trans h2)

theorem andThen_onData (x : Stage) (f : State → Stage) (hf : ∀ u, f (onData F u) = (f u).onData F) :
    andThen (x.onData F) f = (andThen x f).onData F := by
  cases x with
  | done u => exact hf u
  | raised u => rfl

theorem ensureVerified_onData : ensureVerified (onData F s) = (ensureVerified s).onData F := by
  rw [ensureVerified, ensureKI_onData]
  refine andThen_onData F _ _ (fun u => ?_)
  cases hV : u.VERIFIED with
  | true => rw [if_pos (show (onData F u).VERIFIED = true from hV), if_pos rfl]; rfl
  | false =>
    rw [show (onData F u).VERIFIED = false from hV, if_neg Bool.false_ne_true, if_neg Bool.false_ne_true,
      doVerify_onData]

theorem clearFault_onData : clearFault (onData F s) = onData F (clearFault s) := by
  unfold clearFault
  cases h : isClearable s.ERR_CODE with
  | true => rw [if_pos (show isClearable (onData F s).ERR_CODE = true from h)]; rfl
  | false =>
    rw [show isClearable (onData F s).ERR_CODE = false from h, if_neg Bool.false_ne_true,
      if_neg Bool.false_ne_true]

end

/-- What runs the same whatever the data registers hold leaves them. -/
theorem dataOf_of_onData (f : State → State) (hf : ∀ F s, f (onData F s) = onData F (f s)) (s : State) :
    dataOf (f s) = dataOf s := by
  have hs : f s = onData (fun _ => dataOf s) (f s) := hf (fun _ => dataOf s) s
  rw [hs]
  rfl

theorem dataOf_ensureVerified (s : State) : dataOf (stageState (ensureVerified s)) = dataOf s :=
  dataOf_of_onData (fun s => stageState (ensureVerified s))
    (fun F s => by rw [ensureVerified_onData, stageState_onData]) s

/-! ## Commands -/

/-- The commands whose row of 10_state.md R25 gives them no data register. -/
theorem exec_onData (F : DataRegs → DataRegs) (i : Instr) (s t : State)
    (hi : i ∈ [Instr.nop, .buildT, .buildK, .invK, .verify, .init, .clrErr]) (h : exec i s = .next t) :
    exec i (onData F s) = .next (onData F t) := by
  cases i <;> injection h with h <;> subst h
  case nop => rfl
  case buildT => rfl
  case buildK => exact congrArg _ ((congrArg doBuildK (ensureT_onData F s)).trans (doBuildK_onData F _))
  case invK =>
    rw [exec, execInvK, ensureK_onData, doInvK_onData, stageState_onData]
  case verify =>
    rw [exec, execVerify, ensureKI_onData, andThen_onData F _ _ (doVerify_onData F), stageState_onData]
  case init => rw [exec, execInit, ensureVerified_onData, stageState_onData]
  case clrErr => rw [exec, execClrErr, clearFault_onData]
  all_goals exact absurd hi (by decide)

theorem dataOf_exec (i : Instr) (s t : State) (hi : i ∈ [Instr.nop, .buildT, .buildK, .invK, .verify, .init, .clrErr])
    (h : exec i s = .next t) : dataOf t = dataOf s := by
  have ht : exec i s = .next (onData (fun _ => dataOf s) t) := exec_onData (fun _ => dataOf s) i s t hi h
  rw [h] at ht
  injection ht with ht
  rw [ht]
  rfl

/-- A change of data registers that leaves `V` and does not depend on it. -/
structure SparesV (F : DataRegs → DataRegs) : Prop where
  keeps : ∀ d, (F d).V = d.V
  free : ∀ d v, F { d with V := v } = { F d with V := v }

theorem multiplyV_eq_setData (m : StoreId) (s : State) :
    multiplyV m s = setData { dataOf s with V := matVec (readMatrix m s) s.V } s := rfl

theorem multiplyV_onData (F : DataRegs → DataRegs) (hF : SparesV F) (m : StoreId) (s : State) :
    multiplyV m (onData F s) = onData F (multiplyV m s) := by
  have hV : (onData F s).V = s.V := hF.keeps (dataOf s)
  have hd : F (dataOf (multiplyV m s)) = { F (dataOf s) with V := matVec (readMatrix m s) s.V } :=
    hF.free (dataOf s) _
  rw [multiplyV_eq_setData, readMatrix_onData, hV]
  exact congrArg (fun d => setData d s) hd.symm

/-- MVMUL reads and writes `V` only. -/
theorem exec_mvmul_onData (F : DataRegs → DataRegs) (hF : SparesV F) (i : Instr) (s t : State)
    (hi : i ∈ [Instr.mvmulT, .mvmulK, .mvmulKI]) (h : exec i s = .next t) :
    exec i (onData F s) = .next (onData F t) := by
  have hstage : ∀ u, Stage.done (multiplyV .KIS (onData F u)) = (Stage.done (multiplyV .KIS u)).onData F :=
    fun u => congrArg Stage.done (multiplyV_onData F hF .KIS u)
  cases i <;> injection h with h <;> subst h
  case mvmulT => rw [exec, execMvmulT, ensureT_onData, multiplyV_onData F hF]
  case mvmulK => rw [exec, execMvmulK, ensureK_onData, multiplyV_onData F hF]
  case mvmulKI => rw [exec, execMvmulKI, ensureKI_onData, andThen_onData F _ _ hstage, stageState_onData]
  all_goals exact absurd hi (by decide)

/-- JUMPGEN with `NEG` untouched: a run that emits reads `N` and writes `J`, and a run that does not emit touches no
data register, 43_jump.md R131. -/
theorem exec_jumpGen_onData (F : DataRegs → DataRegs) (hF : ∀ d, (F d).NEG = d.NEG) (s t : State)
    (h : exec .jumpGen s = .next t) :
    (t.J_VALID = true ∧ ∃ u, dataOf u = dataOf s ∧ t = emitJump u ∧
      exec .jumpGen (onData F s) = .next (emitJump (onData F u))) ∨
    (t.J_VALID = false ∧ dataOf t = dataOf s ∧ exec .jumpGen (onData F s) = .next (onData F t)) := by
  have hJ := flagTable_jumpGen_J (flagsOf_exec_table .jumpGen s t h) rfl
  have hcleared : { onData F s with J_VALID := false } = onData F { s with J_VALID := false } := rfl
  have hNEG : (onData F s).NEG = s.NEG := hF (dataOf s)
  have hexec : ∀ s, exec .jumpGen s = .next (stageState (jumpGenStage s)) := fun _ => rfl
  rw [hexec] at h ⊢
  injection h with h
  cases hN : s.NEG with
  | true =>
    rw [jumpGenStage_negative s hN] at h
    rw [jumpGenStage_negative _ (hNEG.trans hN), hcleared]
    subst h
    exact .inr ⟨rfl, rfl, rfl⟩
  | false =>
    have hdata := dataOf_ensureVerified { s with J_VALID := false }
    rw [jumpGenStage_nonnegative s hN] at h
    rw [jumpGenStage_nonnegative _ (hNEG.trans hN), hcleared, ensureVerified_onData]
    obtain ⟨u, _, ⟨e, _⟩ | ⟨e, hV⟩⟩ := ensureVerified_split { s with J_VALID := false } <;> rw [e] at h hdata ⊢ <;>
      subst h
    · exact .inl ⟨rfl, u, hdata, rfl, rfl⟩
    · have hnot : ¬ u.J_VALID = true := fun hu => absurd (hV.symm.trans (hJ.mp hu).2) Bool.false_ne_true
      exact .inr ⟨Bool.eq_false_iff.mpr hnot, hdata, rfl⟩

/-! ## The rows of 10_state.md R25, register by register -/

section
variable {i : Instr} {s t : State} (h : exec i s = .next t)
include h

theorem exec_keeps_N_NEG_MADDR : t.N = s.N ∧ t.NEG = s.NEG ∧ t.MADDR = s.MADDR := by
  have hall : dataOf t = dataOf s → t.N = s.N ∧ t.NEG = s.NEG ∧ t.MADDR = s.MADDR := fun hd =>
    ⟨congrArg DataRegs.N hd, congrArg DataRegs.NEG hd, congrArg DataRegs.MADDR hd⟩
  have hmvmul : i ∈ [Instr.mvmulT, .mvmulK, .mvmulKI] → t.N = s.N ∧ t.NEG = s.NEG ∧ t.MADDR = s.MADDR := fun hi => by
    have ht : exec i s = .next (onData (fun d => { d with N := s.N, NEG := s.NEG, MADDR := s.MADDR }) t) :=
      exec_mvmul_onData (fun d => { d with N := s.N, NEG := s.NEG, MADDR := s.MADDR })
        ⟨fun _ => rfl, fun _ _ => rfl⟩ i s t hi h
    rw [h] at ht
    injection ht with ht
    rw [ht]
    exact ⟨rfl, rfl, rfl⟩
  cases i
  case step | enc | dec | jApply => cases h; exact ⟨rfl, rfl, rfl⟩
  case mvmulT | mvmulK | mvmulKI => exact hmvmul (by decide)
  case jumpGen =>
    rcases exec_jumpGen_onData id (fun _ => rfl) s t h with ⟨_, u, hu, rfl, _⟩ | ⟨_, ht, _⟩
    · exact ⟨congrArg DataRegs.N hu, congrArg DataRegs.NEG hu, congrArg DataRegs.MADDR hu⟩
    · exact hall ht
  all_goals exact hall (dataOf_exec _ s t (by decide) h)

/-- A command runs the same after a change of data registers that spares what it reads and writes. -/
theorem exec_onData_of_spared (F : DataRegs → DataRegs) (hmvmul : i ∈ [Instr.mvmulT, .mvmulK, .mvmulKI] → SparesV F)
    (hjump : i = .jumpGen → (∀ d, (F d).NEG = d.NEG) ∧ ∀ u, emitJump (onData F u) = onData F (emitJump u))
    (hcodec : i ∈ [Instr.step, .enc, .dec, .jApply] → exec i (onData F s) = .next (onData F t)) :
    exec i (onData F s) = .next (onData F t) := by
  cases i
  case step | enc | dec | jApply => exact hcodec (by decide)
  case mvmulT | mvmulK | mvmulKI => exact exec_mvmul_onData F (hmvmul (by decide)) _ s t (by decide) h
  case jumpGen =>
    obtain ⟨hNEG, hemit⟩ := hjump rfl
    rcases exec_jumpGen_onData F hNEG s t h with ⟨_, u, _, rfl, e⟩ | ⟨_, _, e⟩
    · rw [e, hemit]
    · exact e
  all_goals exact exec_onData F _ s t (by decide) h

theorem exec_ignores_S (hi : i ∉ [Instr.step, .enc, .dec, .jApply]) (q : Words4) :
    exec i { s with S := q } = .next { t with S := q } :=
  exec_onData_of_spared h (fun d => { d with S := q }) (fun _ => ⟨fun _ => rfl, fun _ _ => rfl⟩)
    (fun _ => ⟨fun _ => rfl, fun _ => rfl⟩) (fun hcodec => absurd hcodec hi)

theorem exec_ignores_V (hi : i ∉ [Instr.enc, .dec, .mvmulT, .mvmulK, .mvmulKI]) (v : Row) :
    exec i { s with V := v } = .next { t with V := v } := by
  refine exec_onData_of_spared h (fun d => { d with V := v }) (fun hm => ?_)
    (fun _ => ⟨fun _ => rfl, fun _ => rfl⟩) (fun hcodec => ?_)
  · exact absurd (List.mem_cons_of_mem _ (List.mem_cons_of_mem _ hm)) hi
  · cases i
    case step | jApply => cases h; rfl
    case enc | dec => exact absurd (by decide) hi
    all_goals exact absurd hcodec (by decide)

theorem exec_ignores_N (hi : i ≠ .jumpGen) (n : Row) (b : Bool) :
    exec i { s with N := n, NEG := b } = .next { t with N := n, NEG := b } := by
  refine exec_onData_of_spared h (fun d => { d with N := n, NEG := b }) (fun _ => ⟨fun _ => rfl, fun _ _ => rfl⟩)
    (fun hj => absurd hj hi) (fun hcodec => ?_)
  cases i
  case step | enc | dec | jApply => cases h; rfl
  all_goals exact absurd hcodec (by decide)

theorem exec_ignores_J (hi : i ∉ [Instr.jumpGen, .jApply]) (j : Words4) :
    exec i { s with J := j } = .next { t with J := j } := by
  refine exec_onData_of_spared h (fun d => { d with J := j }) (fun _ => ⟨fun _ => rfl, fun _ _ => rfl⟩)
    (fun hj => absurd (hj ▸ List.mem_cons_self) hi) (fun hcodec => ?_)
  cases i
  case step | enc | dec => cases h; rfl
  case jApply => exact absurd (by decide) hi
  all_goals exact absurd hcodec (by decide)

end

/-- JUMPGEN overwrites `J` when it emits, and leaves it otherwise, without reading it. -/
theorem exec_jumpGen_J (s t : State) (h : exec .jumpGen s = .next t) :
    (t.J_VALID = true → ∀ j, exec .jumpGen { s with J := j } = .next t) ∧
    (t.J_VALID = false → t.J = s.J ∧ ∀ j, exec .jumpGen { s with J := j } = .next { t with J := j }) := by
  have hcases := fun j => exec_jumpGen_onData (fun d => { d with J := j }) (fun _ => rfl) s t h
  refine ⟨fun hJ j => ?_, fun hJ => ⟨?_, fun j => ?_⟩⟩
  · rcases hcases j with ⟨_, u, _, rfl, e⟩ | ⟨hJ', _, _⟩
    · exact e
    · exact absurd (hJ'.symm.trans hJ) Bool.false_ne_true
  · rcases hcases s.J with ⟨hJ', _⟩ | ⟨_, hd, _⟩
    · exact absurd (hJ.symm.trans hJ') Bool.false_ne_true
    · exact congrArg DataRegs.J hd
  · rcases hcases j with ⟨hJ', _⟩ | ⟨_, _, e⟩
    · exact absurd (hJ.symm.trans hJ') Bool.false_ne_true
    · exact e

/-- Settles O52: the stages run the same whatever the data registers hold, and each command adds its own reads and
writes. -/
theorem commandsTouchOnlyTheirRegisters : Obligations.CommandsTouchOnlyTheirRegisters := by
  intro i s
  obtain ⟨t, h⟩ := exec_next i s
  refine ⟨t, h, exec_ignores_S h, fun hi => ?_, fun hi q => ?_, exec_ignores_V h, fun hi => ?_, fun hi v => ?_,
    exec_ignores_N h, exec_keeps_N_NEG_MADDR h, exec_ignores_J h, fun hi => ?_, fun hi => ?_⟩ <;> subst hi
  · cases h; rfl
  · cases h; rfl
  · cases h; rfl
  · cases h; rfl
  · cases h; rfl
  · exact exec_jumpGen_J s t h

end Sys2Proof.Machine
end

/-! # Which command writes which store (10_state.md R36) -/
section
namespace Sys2Proof.Machine

/-! ## The stages, store by store -/

theorem memRead_doBuildT_other (m : StoreId) (r : Nat) (s : State) (h : m ≠ .TS) :
    memRead m r (doBuildT s) = memRead m r s :=
  memRead_of_otherMatrix .TS m tMat s _ r (doBuildT_mem s) h

theorem memRead_ensureT_other (m : StoreId) (r : Nat) (s : State) (h : m ≠ .TS) :
    memRead m r (ensureT s) = memRead m r s := by
  rcases ensureT_cases s with ⟨_, e⟩ | ⟨_, e⟩ <;> rw [e]
  exact memRead_doBuildT_other m r s h

theorem memRead_doBuildK_other (m : StoreId) (r : Nat) (s : State) (h : m ≠ .KS) :
    memRead m r (doBuildK s) = memRead m r s :=
  memRead_of_otherMatrix .KS m _ s _ r (doBuildK_mem s) h

/-- EnsureK leaves every store but `KS` as EnsureT left it. -/
theorem memRead_ensureK_other (m : StoreId) (r : Nat) (s : State) (h : m ≠ .KS) :
    memRead m r (ensureK s) = memRead m r (ensureT s) := by
  rcases ensureK_cases s with ⟨_, e⟩ | ⟨_, e⟩ <;> rw [e]
  exact memRead_doBuildK_other m r _ h

theorem memRead_ensureK_TS (r : Nat) (s : State) (h : s.T_VALID = true) :
    memRead .TS r (ensureK s) = memRead .TS r s := by
  rw [memRead_ensureK_other .TS r s (by decide), ensureT_valid s h]

/-- EnsureKI leaves every store but `KIS` as EnsureK left it. -/
theorem memRead_ensureKI_other (m : StoreId) (r : Nat) (s : State) (h : m ≠ .KIS) :
    memRead m r (stageState (ensureKI s)) = memRead m r (ensureK s) := by
  rcases ensureKI_cases s with ⟨_, e⟩ | ⟨_, e⟩ <;> rw [e]
  · rfl
  · exact memRead_doInvK m r _ h

/-! ## Commands -/

/-- The state the stages that build and invert leave in a command; the rest of the command writes no store. -/
def built (i : Instr) (s : State) : State :=
  match i with
  | .nop => s
  | .step => s
  | .enc => s
  | .dec => s
  | .jApply => s
  | .clrErr => s
  | .buildT => doBuildT s
  | .mvmulT => ensureT s
  | .buildK => doBuildK (ensureT s)
  | .mvmulK => ensureK s
  | .invK => stageState (doInvK (ensureK s))
  | .verify => stageState (ensureKI s)
  | .init => stageState (ensureKI s)
  | .mvmulKI => stageState (ensureKI s)
  | .jumpGen => if s.NEG then s else stageState (ensureKI { s with J_VALID := false })

theorem clearFault_mem (s : State) : (clearFault s).mem = s.mem := by
  unfold clearFault
  split <;> rfl

/-- A stage that writes no store, after another. -/
theorem andThen_mem (x : Stage) (f : State → Stage) (hf : ∀ u, (stageState (f u)).mem = u.mem) :
    (stageState (andThen x f)).mem = (stageState x).mem := by
  cases x with
  | done u => exact hf u
  | raised u => rfl

theorem ensureVerified_mem (s : State) : (stageState (ensureVerified s)).mem = (stageState (ensureKI s)).mem := by
  refine andThen_mem _ _ (fun u => ?_)
  split
  · rfl
  · exact doVerify_mem u

theorem exec_mem (i : Instr) (s t : State) (h : exec i s = .next t) : t.mem = (built i s).mem := by
  cases i <;> injection h with h <;> subst h
  case clrErr => exact clearFault_mem s
  case verify => exact andThen_mem _ _ doVerify_mem
  case init => exact ensureVerified_mem s
  case mvmulKI => exact andThen_mem _ _ (fun _ => rfl)
  case jumpGen =>
    cases hN : s.NEG with
    | true => rw [jumpGenStage_negative s hN, built, if_pos hN]; rfl
    | false =>
      rw [jumpGenStage_nonnegative s hN, built, hN, if_neg Bool.false_ne_true, andThen_mem _ _ (fun _ => rfl)]
      exact ensureVerified_mem _
  all_goals rfl

theorem memRead_exec (i : Instr) (s t : State) (h : exec i s = .next t) (m : StoreId) (r : Nat) :
    memRead m r t = memRead m r (built i s) :=
  memRead_congr m r t _ (exec_mem i s t h)

theorem memRead_built_TS (i : Instr) (s : State) (r : Nat) (hi : i ≠ .buildT) (hT : s.T_VALID = true) :
    memRead .TS r (built i s) = memRead .TS r s := by
  cases i
  case buildT => exact absurd rfl hi
  case mvmulT => rw [built, ensureT_valid s hT]
  case buildK => rw [built, memRead_doBuildK_other .TS r _ (by decide), ensureT_valid s hT]
  case mvmulK => exact memRead_ensureK_TS r s hT
  case invK => rw [built, memRead_doInvK .TS r _ (by decide), memRead_ensureK_TS r s hT]
  case verify | init | mvmulKI => rw [built, memRead_ensureKI_other .TS r s (by decide), memRead_ensureK_TS r s hT]
  case jumpGen =>
    rw [built]
    split
    · rfl
    · rw [memRead_ensureKI_other .TS r _ (by decide)]
      exact memRead_ensureK_TS r { s with J_VALID := false } hT
  all_goals rfl

theorem memRead_built_KS (i : Instr) (s : State) (r : Nat) (hi : i ≠ .buildK) (hT : s.T_VALID = true)
    (hK : s.K_VALID = true) : memRead .KS r (built i s) = memRead .KS r s := by
  cases i
  case buildT => exact memRead_doBuildT_other .KS r s (by decide)
  case mvmulT => exact memRead_ensureT_other .KS r s (by decide)
  case buildK => exact absurd rfl hi
  case mvmulK => rw [built, ensureK_valid s hT hK]
  case invK => rw [built, memRead_doInvK .KS r _ (by decide), ensureK_valid s hT hK]
  case verify | init | mvmulKI => rw [built, memRead_ensureKI_other .KS r s (by decide), ensureK_valid s hT hK]
  case jumpGen =>
    rw [built]
    split
    · rfl
    · rw [memRead_ensureKI_other .KS r _ (by decide), ensureK_valid { s with J_VALID := false } hT hK]
      rfl
  all_goals rfl

theorem memRead_built_KIS (i : Instr) (s : State) (r : Nat) (hi : i ≠ .invK) (hT : s.T_VALID = true)
    (hK : s.K_VALID = true) (hKI : s.KI_VALID = true) : memRead .KIS r (built i s) = memRead .KIS r s := by
  cases i
  case buildT => exact memRead_doBuildT_other .KIS r s (by decide)
  case mvmulT => exact memRead_ensureT_other .KIS r s (by decide)
  case buildK =>
    rw [built, memRead_doBuildK_other .KIS r _ (by decide), memRead_ensureT_other .KIS r s (by decide)]
  case mvmulK => rw [built, ensureK_valid s hT hK]
  case invK => exact absurd rfl hi
  case verify | init | mvmulKI => rw [built, ensureKI_valid s hT hK hKI]; rfl
  case jumpGen =>
    rw [built]
    split
    · rfl
    · rw [ensureKI_valid { s with J_VALID := false } hT hK hKI]; rfl
  all_goals rfl

theorem memRead_built_idle (i : Instr) (s : State) (m : StoreId) (r : Nat)
    (hi : i ∈ [Instr.nop, .step, .enc, .dec, .jApply, .clrErr]) : memRead m r (built i s) = memRead m r s := by
  cases i
  case nop | step | enc | dec | jApply | clrErr => rfl
  all_goals exact absurd hi (by decide)

theorem memRead_built_T (i : Instr) (s : State) (m : StoreId) (r : Nat) (hi : i ∈ [Instr.buildT, .mvmulT])
    (hm : m ≠ .TS) : memRead m r (built i s) = memRead m r s := by
  cases i
  case buildT => exact memRead_doBuildT_other m r s hm
  case mvmulT => exact memRead_ensureT_other m r s hm
  all_goals exact absurd hi (by decide)

theorem memRead_built_K (i : Instr) (s : State) (r : Nat) (hi : i ∈ [Instr.buildK, .mvmulK]) :
    memRead .KIS r (built i s) = memRead .KIS r s := by
  cases i
  case buildK =>
    rw [built, memRead_doBuildK_other .KIS r _ (by decide), memRead_ensureT_other .KIS r s (by decide)]
  case mvmulK =>
    rw [built, memRead_ensureK_other .KIS r s (by decide), memRead_ensureT_other .KIS r s (by decide)]
  all_goals exact absurd hi (by decide)

/-- A register write but `CMD` and `CTRL` leaves the memory, 20_memory.md R56. -/
theorem portWrite_mem (s t : State) (idx : PortIndex) (d : Word) (hcmd : idx ≠ 0x00#8) (hctrl : idx ≠ 0x04#8)
    (h : portWrite idx d s = .next t) : t.mem = s.mem := by
  unfold portWrite at h
  cases hr : regOfIndex idx with
  | none => rw [hr] at h; cases h; rfl
  | some r =>
    obtain rfl := indexOfReg_of_regOfIndex idx r hr
    rw [hr] at h
    cases r
    case cmd => exact absurd rfl hcmd
    case ctrl => exact absurd rfl hctrl
    all_goals cases h; rfl

/-- Settles O54: a command's stores are those its building stages leave. -/
theorem storesAreWrittenOnlyByBuildStages : Obligations.StoresAreWrittenOnlyByBuildStages := by
  refine ⟨fun i s => ?_, fun s t idx d hcmd hctrl h m r => ?_, fun s t idx h m r => ?_⟩
  · obtain ⟨t, h⟩ := exec_next i s
    refine ⟨t, h, ?_⟩
    simp only [memRead_exec i s t h]
    exact ⟨fun hi m r => memRead_built_idle i s m r hi, fun hi m r hm => memRead_built_T i s m r hi hm,
      fun hi r => memRead_built_K i s r hi, fun hi hT r => memRead_built_TS i s r hi hT,
      fun hi hT hK r => memRead_built_KS i s r hi hT hK, fun hi hT hK hKI r => memRead_built_KIS i s r hi hT hK hKI⟩
  · exact memRead_congr m r t s (portWrite_mem s t idx d hcmd hctrl h)
  · cases h; rfl

end Sys2Proof.Machine
end

/-! # The data registers on the port (10_state.md R20, 20_memory.md R64) -/
section
namespace Sys2Proof.Machine

theorem rowWord_encodeState (q : Words4) (w : WordIdx) : rowWord (encodeState q) w = wordOf q w := by
  apply BitVec.eq_of_getLsbD_eq
  intro k hk
  rw [getLsbD_rowWord _ w k hk, getLsbD_encodeState]
  match w with
  | 0 => simp [wordOf, hk]
  | 1 =>
    have h1 : 64 + k < 128 := by omega
    simp [wordOf, h1]
  | 2 =>
    have h0 : ¬ 128 + k < 64 := by omega
    have h2 : 128 + k < 192 := by omega
    simp [wordOf, h0, h2]
  | 3 =>
    have h0 : ¬ 192 + k < 64 := by omega
    have h1 : ¬ 192 + k < 128 := by omega
    simp [wordOf, h0, h1]

theorem rowWord_rowWithWord_same (v : Row) (w : WordIdx) (d : Word) : rowWord (rowWithWord v w d) w = d := by
  rw [rowWithWord, rowWord_encodeState, wordOf_withWord_same]

theorem rowWord_rowWithWord_other (v : Row) (w w' : WordIdx) (d : Word) (h : w' ≠ w) :
    rowWord (rowWithWord v w d) w' = rowWord v w' := by
  rw [rowWithWord, rowWord_encodeState, wordOf_withWord_other _ _ _ _ h, rowWord]

/-- The sixteen words of `N`, `S`, `V` and `J`. -/
def isDataWord : RegName → Bool
  | .n _ => true
  | .s _ => true
  | .v _ => true
  | .j _ => true
  | _ => false

theorem dataWord_of_index (x : PortIndex) (h1 : 0x08 ≤ x.toNat) (h2 : x.toNat ≤ 0x17) :
    ∃ r, regOfIndex x = some r ∧ isDataWord r = true := by
  have hall : ∀ x : BitVec 8, 0x08 ≤ x.toNat → x.toNat ≤ 0x17 → (regOfIndex x).any isDataWord = true := by decide
  exact (Option.any_eq_true _ _).mp (hall x h1 h2)

theorem readReg_after_writeReg (r : RegName) (d : Word) (s : State) (hr : isDataWord r = true) :
    ∃ t, writeReg r d s = .next t ∧ readReg r t = d ∧
      ∀ r', isDataWord r' = true → r' ≠ r → readReg r' t = readReg r' s := by
  cases r
  case n w =>
    refine ⟨_, rfl, rowWord_rowWithWord_same s.N w d, fun r' hr' hne => ?_⟩
    cases r'
    case n w' => exact rowWord_rowWithWord_other s.N w w' d (fun e => hne (e ▸ rfl))
    case s | v | j => rfl
    all_goals exact absurd hr' Bool.false_ne_true
  case s w =>
    refine ⟨_, rfl, wordOf_withWord_same s.S w d, fun r' hr' hne => ?_⟩
    cases r'
    case s w' => exact wordOf_withWord_other s.S w w' d (fun e => hne (e ▸ rfl))
    case n | v | j => rfl
    all_goals exact absurd hr' Bool.false_ne_true
  case v w =>
    refine ⟨_, rfl, rowWord_rowWithWord_same s.V w d, fun r' hr' hne => ?_⟩
    cases r'
    case v w' => exact rowWord_rowWithWord_other s.V w w' d (fun e => hne (e ▸ rfl))
    case n | s | j => rfl
    all_goals exact absurd hr' Bool.false_ne_true
  case j w =>
    refine ⟨_, rfl, wordOf_withWord_same s.J w d, fun r' hr' hne => ?_⟩
    cases r'
    case j w' => exact wordOf_withWord_other s.J w w' d (fun e => hne (e ▸ rfl))
    case n | s | v => rfl
    all_goals exact absurd hr' Bool.false_ne_true
  all_goals exact absurd hr Bool.false_ne_true

theorem portWrite_of_reg (idx : PortIndex) (r : RegName) (d : Word) (s : State) (h : regOfIndex idx = some r) :
    portWrite idx d s = writeReg r d s := by
  rw [portWrite, h]

theorem portRead_of_reg (idx : PortIndex) (r : RegName) (s : State) (h : regOfIndex idx = some r) :
    portRead idx s = readReg r s := by
  rw [portRead, h]

/-- Settles O11: the index names one data word, and another index another word. -/
theorem writtenWordReadsBackAndOthersKeep : Obligations.WrittenWordReadsBackAndOthersKeep := by
  intro s d x y hx1 hx2 hy1 hy2
  obtain ⟨rx, hx, hrx⟩ := dataWord_of_index x hx1 hx2
  obtain ⟨ry, hy, hry⟩ := dataWord_of_index y hy1 hy2
  obtain ⟨t, ht, hsame, hother⟩ := readReg_after_writeReg rx d s hrx
  refine ⟨t, (portWrite_of_reg x rx d s hx).trans ht, (portRead_of_reg x rx t hx).trans hsame, fun hne => ?_⟩
  rw [portRead_of_reg y ry t hy, portRead_of_reg y ry s hy]
  refine hother ry hry (fun e => hne ?_)
  rw [← indexOfReg_of_regOfIndex y ry hy, e, indexOfReg_of_regOfIndex x rx hx]

end Sys2Proof.Machine
end

/-! # Reset (10_state.md R34, R41, 70_reset_and_hazards.md R181) -/
section
namespace Sys2Proof.Machine

/-- The reference constants are the registers at the indices `0x18..0x1F`. -/
theorem readReg_reset (r : RegName) (h : (indexOfReg r).toNat < 0x18 ∨ 0x20 ≤ (indexOfReg r).toNat) :
    readReg r State.reset = 0 := by
  cases r
  case ref128 w | ref192 w => revert w; decide
  case n w | s w | v w | j w => revert w; decide
  all_goals rfl

theorem portRead_reset (idx : PortIndex) (h : idx.toNat < 0x18 ∨ 0x20 ≤ idx.toNat) : portRead idx State.reset = 0 := by
  cases hr : regOfIndex idx with
  | none => rw [portRead, hr]
  | some r =>
    obtain rfl := indexOfReg_of_regOfIndex idx r hr
    rw [portRead_of_reg _ r _ hr, readReg_reset r h]

theorem regOfIndex_ref128 (w : WordIdx) : regOfIndex (Spec.indexAt 0x18#8 w) = some (.ref128 w) := by
  revert w; decide

theorem regOfIndex_ref192 (w : WordIdx) : regOfIndex (Spec.indexAt 0x1C#8 w) = some (.ref192 w) := by
  revert w; decide

/-- Settles O14: the registers by their definition, the port register by register. -/
theorem resetLeavesResetValues : Obligations.ResetLeavesResetValues :=
  ⟨rfl, rfl, rfl, rfl, rfl, rfl, rfl, rfl, rfl, rfl, rfl, rfl, rfl, portRead_reset, fun w =>
    ⟨portRead_of_reg _ _ _ (regOfIndex_ref128 w), portRead_of_reg _ _ _ (regOfIndex_ref192 w)⟩⟩

/-- Settles O15: index `0x04` is `CTRL`, whose write is the input's Reset when bit 0 is 1 and nothing otherwise. -/
theorem softwareResetEqualsResetInput : Obligations.SoftwareResetEqualsResetInput := by
  intro s d
  have hctrl : portWrite 0x04#8 d s = .next (if d.getLsbD 0 then resetCore s else s) := rfl
  refine ⟨⟨(resetCore s).mem, rfl⟩, fun hd => ?_, fun hd => ?_, rfl⟩
  · rw [hctrl, hd, if_pos rfl]; rfl
  · rw [hctrl, hd, if_neg Bool.false_ne_true]

end Sys2Proof.Machine
end

/-! # The registers on the port (10_state.md R42, 20_memory.md R55, R56, R58) -/
section
namespace Sys2Proof.Machine

/-! ## The indices of the data words and the reserved indices -/

theorem regOfIndex_n (w : WordIdx) : regOfIndex (Spec.indexAt 0x08#8 w) = some (.n w) := by
  revert w; decide

theorem regOfIndex_s (w : WordIdx) : regOfIndex (Spec.indexAt 0x0C#8 w) = some (.s w) := by
  revert w; decide

theorem regOfIndex_v (w : WordIdx) : regOfIndex (Spec.indexAt 0x10#8 w) = some (.v w) := by
  revert w; decide

theorem regOfIndex_j (w : WordIdx) : regOfIndex (Spec.indexAt 0x14#8 w) = some (.j w) := by
  revert w; decide

theorem regOfIndex_reserved (idx : PortIndex) (h : 0x20 ≤ idx.toNat) : regOfIndex idx = none := by
  have hall : ∀ x : BitVec 8, 0x20 ≤ x.toNat → regOfIndex x = none := by decide
  exact hall idx h

theorem portRead_reserved (idx : PortIndex) (s : State) (h : 0x20 ≤ idx.toNat) : portRead idx s = 0 := by
  rw [portRead, regOfIndex_reserved idx h]

/-- A write to a read-only or a reserved index is ignored, 20_memory.md R56, R58. -/
theorem portWrite_ignored (idx : PortIndex) (d : Word) (s : State)
    (h : idx.toNat = 0x01 ∨ idx.toNat = 0x02 ∨ idx.toNat = 0x03 ∨ idx.toNat = 0x07 ∨ 0x18 ≤ idx.toNat) :
    portWrite idx d s = .next s := by
  cases hr : regOfIndex idx with
  | none => rw [portWrite, hr]
  | some r =>
    rw [portWrite_of_reg idx r d s hr]
    obtain rfl := indexOfReg_of_regOfIndex idx r hr
    cases r
    case status | err | errInfo | mdata | ref128 | ref192 => rfl
    case n w | s w | v w | j w => exfalso; clear hr; revert w; decide
    case cmd | ctrl | nctl | maddr => exact absurd h (by decide)

/-! ## The bits of `STATUS` -/

theorem getLsbD_flagBit (b : Bool) (pos k : Nat) (hk : k < 64) :
    (flagBit b pos).getLsbD k = (decide (k = pos) && b) := by
  cases b with
  | false => simp [flagBit]
  | true =>
    rw [flagBit, if_pos rfl, ← BitVec.twoPow_eq, BitVec.getLsbD_twoPow]
    by_cases h : k = pos
    · simp [← h, hk]
    · simp [h, Ne.symm h]

theorem errFlag_eq (s : State) : errFlag s = decide (s.ERR_CODE ≠ .none) := by
  cases h : s.ERR_CODE <;> rw [errFlag, h] <;> rfl

theorem fatalFlag_eq (s : State) : fatalFlag s = decide (s.ERR_CODE = .singular ∨ s.ERR_CODE = .verifyMismatch) := by
  cases h : s.ERR_CODE <;> rw [fatalFlag, h] <;> rfl

/-- `STATUS` as its list of bits, 10_state.md R31. -/
theorem getLsbD_statusWord (s : State) (k : Nat) (hk : k < 64) :
    (statusWord s).getLsbD k =
      [s.T_VALID, s.K_VALID, s.KI_VALID, s.VERIFIED, s.J_VALID, errFlag s, fatalFlag s].getD k false := by
  simp only [statusWord, BitVec.getLsbD_or, getLsbD_flagBit _ _ k hk]
  match k with
  | 0 | 1 | 2 | 3 | 4 | 5 | 6 | k + 7 => simp

/-- Settles O7: each index names its register, and `readReg` says what that register reads as. -/
theorem portReadReturnsRegisters : Obligations.PortReadReturnsRegisters := by
  intro s
  refine ⟨fun _ => rfl, rfl, fun k hk => ?status, ?err, rfl, rfl, fun k _ => ?nctl, fun k hk => ?maddr, rfl,
    fun w => ⟨fun k hk => ?n, portRead_of_reg _ _ s (regOfIndex_s w), fun k hk => ?v,
      portRead_of_reg _ _ s (regOfIndex_j w), portRead_of_reg _ _ s (regOfIndex_ref128 w),
      portRead_of_reg _ _ s (regOfIndex_ref192 w)⟩, fun idx h => portRead_reserved idx s h⟩
  case status =>
    rw [portRead_of_reg 0x01#8 .status s rfl, readReg, getLsbD_statusWord s k hk, errFlag_eq, fatalFlag_eq]
    match k with
    | 0 | 1 | 2 | 3 | 4 | 5 | 6 | k + 7 => rfl
  case err =>
    rw [portRead_of_reg 0x02#8 .err s rfl, readReg]
    cases s.ERR_CODE <;> rfl
  case nctl =>
    rw [portRead_of_reg 0x05#8 .nctl s rfl, readReg]
    cases s.NEG <;> simp
  case maddr =>
    rw [portRead_of_reg 0x06#8 .maddr s rfl, readReg, BitVec.getLsbD_setWidth]
    by_cases h : k < 12
    · simp [h, hk]
    · simp [h, hk, BitVec.getLsbD_of_ge s.MADDR k (by omega)]
  case n => rw [portRead_of_reg _ _ s (regOfIndex_n w), readReg, getLsbD_rowWord _ _ _ hk]
  case v => rw [portRead_of_reg _ _ s (regOfIndex_v w), readReg, getLsbD_rowWord _ _ _ hk]

/-! ## What a write stores -/

theorem wordOf_withWord (q : Words4) (w w' : WordIdx) (d : Word) :
    wordOf (withWord q w d) w' = if w' = w then d else wordOf q w' := by
  split
  · next h => rw [h, wordOf_withWord_same]
  · next h => exact wordOf_withWord_other q w w' d h

theorem getLsbD_rowWithWord (v : Row) (w w' : WordIdx) (d : Word) (k : Nat) (hk : k < 64) :
    (rowWithWord v w d).getLsbD (64 * w'.val + k) =
      if w' = w then d.getLsbD k else v.getLsbD (64 * w'.val + k) := by
  rw [← getLsbD_rowWord _ w' k hk]
  split
  · next h => rw [h, rowWord_rowWithWord_same]
  · next h => rw [rowWord_rowWithWord_other v w w' d h, getLsbD_rowWord _ w' k hk]

/-- A `CMD` write uses data bits 31:0, 20_memory.md R56. -/
theorem portWrite_cmd_low (d : Word) (s : State) : portWrite 0x00#8 d s = runCommand (d.extractLsb' 0 32) s := by
  rw [portWrite_cmd, BitVec.setWidth_eq_extractLsb' (by decide)]

theorem portWrite_ctrl (d : Word) (s : State) :
    portWrite 0x04#8 d s = .next (if d.getLsbD 0 then resetCore s else s) := rfl

theorem portWrite_nctl (d : Word) (s : State) : portWrite 0x05#8 d s = .next { s with NEG := d.getLsbD 0 } := rfl

theorem portWrite_maddr (d : Word) (s : State) :
    portWrite 0x06#8 d s = .next { s with MADDR := d.extractLsb' 0 12 } := by
  rw [portWrite_of_reg 0x06#8 .maddr d s rfl, writeReg, BitVec.setWidth_eq_extractLsb' (by decide)]

/-- Settles O9: each index names its register, and `writeReg` says what that register stores. -/
theorem portWriteStoresRegisters : Obligations.PortWriteStoresRegisters := by
  intro s d
  refine ⟨portWrite_cmd_low d s, ?_, portWrite_nctl d s, portWrite_maddr d s, fun w => ⟨?_, ?_, ?_, ?_⟩,
    fun idx h => portWrite_ignored idx d s h⟩
  · rw [portWrite_ctrl]
    split <;> rfl
  · exact ⟨_, portWrite_of_reg _ _ d s (regOfIndex_n w), fun w' k hk => getLsbD_rowWithWord s.N w w' d k hk⟩
  · exact ⟨_, portWrite_of_reg _ _ d s (regOfIndex_s w), fun w' => wordOf_withWord s.S w w' d⟩
  · exact ⟨_, portWrite_of_reg _ _ d s (regOfIndex_v w), fun w' k hk => getLsbD_rowWithWord s.V w w' d k hk⟩
  · exact ⟨_, portWrite_of_reg _ _ d s (regOfIndex_j w), fun w' => wordOf_withWord s.J w w' d⟩

/-! ## Reserved bits -/

theorem toNat_statusWord_lt (s : State) : (statusWord s).toNat < 2 ^ 7 := by
  apply Nat.lt_pow_two_of_testBit
  intro k hk
  rw [BitVec.testBit_toNat]
  by_cases h : k < 64
  · rw [getLsbD_statusWord s k h]
    exact List.getD_eq_default _ _ hk
  · exact BitVec.getLsbD_of_ge _ _ (by omega)

/-- A narrow register read as a 64-bit word has zeros above its own bits. -/
theorem toNat_setWidth_lt {n : Nat} (x : BitVec n) (h : n ≤ 64) : (x.setWidth 64).toNat < 2 ^ n := by
  rw [BitVec.toNat_setWidth_of_le h]
  exact x.isLt

/-- Settles O10: a register's word is bounded by its defined bits, and its write depends on them alone. -/
theorem reservedLocationsReadZeroIgnoreWrites : Obligations.ReservedLocationsReadZeroIgnoreWrites := by
  intro s d d'
  refine ⟨fun idx h => ⟨portRead_reserved idx s h, portWrite_ignored idx d s (by omega)⟩, toNat_statusWord_lt s,
    toNat_setWidth_lt (errNumber s.ERR_CODE) (by decide), ?_, toNat_setWidth_lt s.MADDR (by decide), fun h => ?_,
    fun h => ?_, fun idx h => portWrite_ignored idx d s (by omega)⟩
  · rw [portRead_of_reg 0x05#8 .nctl s rfl, readReg]
    cases s.NEG <;> decide
  · rw [portWrite_ctrl, portWrite_ctrl, portWrite_nctl, portWrite_nctl, h]
    exact ⟨rfl, rfl⟩
  · rw [portWrite_maddr, portWrite_maddr, h]

end Sys2Proof.Machine
end

/-! # The matrix window (10_state.md R35, 20_memory.md R61) -/
section
namespace Sys2Proof.Machine

/-- The fields `MAT`, `ROW` and `W` of `MADDR`. -/
theorem maddr_fields (mat : BitVec 2) (row : BitVec 8) (w : BitVec 2) :
    (mat ++ row ++ w).extractLsb' 0 2 = w ∧ (mat ++ row ++ w).extractLsb' 2 8 = row ∧
      (mat ++ row ++ w).extractLsb' 10 2 = mat := by
  refine ⟨BitVec.extractLsb'_append_eq_right, ?_, ?_⟩
  · rw [BitVec.extractLsb'_append_eq_of_le (by decide)]
    exact BitVec.extractLsb'_append_eq_right
  · rw [BitVec.extractLsb'_append_eq_of_le (by decide)]
    exact BitVec.extractLsb'_append_eq_left

/-- The window shows a bit of a row of the selected store where that store is valid, and 0 elsewhere. -/
theorem getLsbD_windowRead (s : State) (mat : BitVec 2) (row : BitVec 8) (w : BitVec 2) (k : Nat) (hk : k < 64) :
    (windowRead (mat ++ row ++ w) s).getLsbD k =
      (windowStore mat).any
        (fun m => storeValid m s && (memRead m row.toNat s).getLsbD (64 * w.toNat + k)) := by
  obtain ⟨hw, hrow, hmat⟩ := maddr_fields mat row w
  simp only [windowRead, hw, hrow, hmat]
  cases windowStore mat with
  | none => simp
  | some m =>
    cases hv : storeValid m s with
    | false => simp [hv]
    | true => simp [hv, getLsbD_rowWord _ _ k hk]

/-- Settles O8: the store by `MAT`, gated by its flag; the writes by `portWrite_mem`. -/
theorem windowReadsValidStores : Obligations.WindowReadsValidStores := by
  refine ⟨fun s mat row w k hk => ?_, fun s t idx d hcmd hctrl h => ⟨portWrite_mem s t idx d hcmd hctrl h, ?_⟩⟩
  · rw [getLsbD_windowRead s mat row w k hk, windowStore]
    generalize mat.toNat = n
    match n with
    | 0 | 1 | 2 | n + 3 => rfl
  · rintro rfl
    cases h
    rfl

end Sys2Proof.Machine
end

/-! # The order of the tests a `CMD` write makes (20_memory.md R57) -/
section
namespace Sys2Proof.Machine

theorem decode_eq_clrErr (word : CmdWord) : decode word = .ok .clrErr ↔ word = 0x0000003F#32 :=
  ⟨eq_tableWord_of_decode word .clrErr, fun h => h ▸ by decide⟩

theorem clearFault_clearable (s : State) (h : s.ERR_CODE = .invalidInput ∨ s.ERR_CODE = .illegalCommand) :
    clearFault s = { s with ERR_CODE := .none, ERRINFO := 0 } := by
  rcases h with h | h <;> rw [clearFault, h] <;> rfl

theorem clearFault_not_clearable (s : State) (h : ¬ (s.ERR_CODE = .invalidInput ∨ s.ERR_CODE = .illegalCommand)) :
    clearFault s = s := by
  unfold clearFault
  cases hc : s.ERR_CODE
  case invalidInput => exact absurd (.inl hc) h
  case illegalCommand => exact absurd (.inr hc) h
  all_goals rfl

/-- Settles O12: the four ways `RunCommand` ends are the four ends of the chain of tests. -/
theorem runCommandOrder : Obligations.RunCommandOrder := by
  intro s d
  refine ⟨rfl, ?_⟩
  rw [portWrite_cmd_low]
  generalize d.extractLsb' 0 32 = word
  rcases runCommand_cases word s with ⟨he, hd, hr⟩ | ⟨he, hd, hr⟩ | ⟨he, ⟨e, hd⟩, hr⟩ | ⟨he, i, hd, hr⟩ <;> rw [hr]
  · rw [if_pos he]
    by_cases hc : s.ERR_CODE = .invalidInput ∨ s.ERR_CODE = .illegalCommand
    · rw [if_pos ⟨(decode_eq_clrErr word).mp hd, hc⟩, clearFault_clearable s hc]
    · rw [if_neg (fun h => hc h.2), clearFault_not_clearable s hc]
  · rw [if_pos he, if_neg (fun h => hd ((decode_eq_clrErr word).mpr h.1))]
  · rw [if_neg (not_not_intro he), hd, raise]
  · rw [if_neg (not_not_intro he), hd]

end Sys2Proof.Machine
end

/-! # The byte-addressed wrapper (20_memory.md R53, R59) -/
section
namespace Sys2Proof.Machine

/-! ## Bytes of a word -/

theorem getLsbD_wordByte (d : Word) (j b : Nat) (hb : b < 8) : (wordByte d j).getLsbD b = d.getLsbD (8 * j + b) := by
  simp [wordByte, hb]

theorem length_wordBytes (d : Word) : (wordBytes d).length = 8 := by simp [wordBytes]

theorem getD_wordBytes (d : Word) (j : Nat) (hj : j < 8) : (wordBytes d).getD j 0 = wordByte d j := by
  simp [wordBytes, List.getD, hj]

theorem getLsbD_wordOfBytes (bs : List Byte) (j b : Nat) (hj : j < 8) (hb : b < 8) :
    (wordOfBytes bs).getLsbD (8 * j + b) = (bs.getD j 0).getLsbD b := by
  induction bs generalizing j with
  | nil => simp [wordOfBytes]
  | cons x xs ih =>
    rw [wordOfBytes, BitVec.getLsbD_or, BitVec.getLsbD_shiftLeft, BitVec.getLsbD_setWidth]
    cases j with
    | zero =>
      have h64 : b < 64 := by omega
      simp [hb, h64]
    | succ j =>
      have hlow : ¬ 8 * (j + 1) + b < 8 := by omega
      have h64 : 8 * (j + 1) + b < 64 := by omega
      have hsub : 8 * (j + 1) + b - 8 = 8 * j + b := by omega
      have hx : x.getLsbD (8 * (j + 1) + b) = false := BitVec.getLsbD_of_ge _ _ (by omega)
      simp [hlow, h64, hsub, hx, ih j (by omega)]

/-! ## Accesses -/

theorem busIndex_mul (x : PortIndex) : busIndex (8 * x.toNat) = x := by
  rw [busIndex, Nat.mul_div_cancel_left _ (by decide), BitVec.ofNat_toNat, BitVec.setWidth_eq]

/-- The access of 8 bytes at byte offset `8 * x` is one the spec defines. -/
theorem busAccess_index (x : PortIndex) (k : Host.Outcome State Fault Refusal) :
    busAccess (8 * x.toNat) 8 k = k := by
  refine busAccess_defined _ _ k ?_ ?_
  · simp [busAligned]
  · have := x.isLt
    exact decide_eq_true (by omega)

theorem busAccess_undefined (offset size : Nat) (k : Host.Outcome State Fault Refusal)
    (h : size ≠ 8 ∨ offset % 8 ≠ 0) : busAccess offset size k = .refused .undefinedBusAccess := by
  have ha : busAligned offset size = false := by
    rcases h with h | h <;> simp [busAligned, h]
  rw [busAccess, ha]
  rfl

theorem busAccess_outside (offset : Nat) (k : Host.Outcome State Fault Refusal) (h : 2048 ≤ offset)
    (h8 : offset % 8 = 0) : busAccess offset 8 k = .refused .busAddressOutsideBlock := by
  have ha : busAligned offset 8 = true := by simp [busAligned, h8]
  have hb : busInBlock offset = false := decide_eq_false (by omega)
  rw [busAccess, ha, hb]
  rfl

/-- Settles O13: an access at offset `8 * x` is the port's at index `x`, and every other is refused. -/
theorem wrapperAccessesAreAlignedWords : Obligations.WrapperAccessesAreAlignedWords := by
  intro s x
  refine ⟨⟨wordBytes (portRead x s), length_wordBytes _, ?_, fun j hj b hb => ?_⟩, fun bs hbs =>
    ⟨wordOfBytes bs, ?_, fun j hj b hb => getLsbD_wordOfBytes bs j b hj hb⟩, fun offset size bs h hbs => ?_,
    fun offset bs h h8 hbs => ?_⟩
  · rw [perform, busAccess_index, busIndex_mul]
    rfl
  · rw [getD_wordBytes _ j hj, getLsbD_wordByte _ j b hb]
  · rw [perform, hbs, busAccess_index, busIndex_mul]
  · exact ⟨busAccess_undefined offset size _ h, busAccess_undefined offset bs.length _ (hbs ▸ h)⟩
  · refine ⟨busAccess_outside offset _ h h8, ?_⟩
    rw [perform, hbs, busAccess_outside offset _ h h8]

end Sys2Proof.Machine
end

/-! # The table of the command words (30_encoding.md R73, R75, R76) -/
section
namespace Sys2Proof

theorem decode_encode (i : Instr) : decode (encode i) = .ok i := by
  cases i <;> rfl

/-- Exactly one word decodes to a command: its own in the table, 30_encoding.md R73. -/
theorem decode_eq_ok_iff (w : CmdWord) (i : Instr) : decode w = .ok i ↔ w = Spec.tableWord i :=
  ⟨eq_tableWord_of_decode w i, fun h => by rw [h, ← encode_eq_tableWord, decode_encode]⟩

/-- Settles O2: a decoded word has its command's fields, and the decoder rejects a word when it answers no command. -/
theorem decodeAcceptsExactlyTheTable : Obligations.DecodeAcceptsExactlyTheTable := by
  refine ⟨decode_eq_ok_iff, fun i => ⟨rfl, encode_eq_tableWord i, decode_encode i⟩, fun w => ?rejected⟩
  case rejected =>
    simp only [ne_eq, ← decode_eq_ok_iff]
    cases decode w with
    | error e => simp
    | ok i => simp

/-- Settles O1: the six legal words are those the encoder writes; each illegal one meets the test of its class. -/
theorem decodeReadsWrittenOutWords : Obligations.DecodeReadsWrittenOutWords :=
  ⟨decode_encode .step, decode_encode .invK, decode_encode .mvmulK, decode_encode .mvmulKI, decode_encode .jumpGen,
    decode_encode .clrErr, rfl, rfl, rfl, rfl⟩

end Sys2Proof
end

/-! # The script lines `SETN` and `GETROW` (30_encoding.md R79) -/
section
namespace Sys2Proof.Machine

/-! ## The accesses of a script line -/

theorem regOfIndex_indexOfReg (r : RegName) : regOfIndex (indexOfReg r) = some r := by
  cases r
  case n w | s w | v w | j w | ref128 w | ref192 w => revert w; decide
  all_goals rfl

theorem perform_writeLine (r : RegName) (d : Word) (s : State) : perform (writeLine r d) s = writeReg r d s :=
  portWrite_of_reg _ r d s (regOfIndex_indexOfReg r)

theorem perform_readLine (r : RegName) (s : State) :
    perform (readLine r) s = .next (observe (.word (readReg r s)) s) := by
  rw [readLine, perform, portRead_of_reg _ r s (regOfIndex_indexOfReg r)]

theorem run_of_step {M : Host.Core} (k : Nat) (s t : M.State) (h : M.step s = .next t) :
    M.run (k + 1) s = M.run k t := by
  rw [Host.Core.run, h]

/-- A run whose script goes on with event `e` performs it and goes on behind it. -/
theorem run_event (k : Nat) (e : HostEvent) (es : List HostEvent) (s u : State) (h : s.script.drop s.pc = e :: es)
    (hu : perform e s = .next u) :
    Host.Core.run core (k + 1) s = Host.Core.run core k { u with pc := u.pc + 1 } := by
  have hevent : s.script[s.pc]? = some e := by rw [← List.head?_drop, h, List.head?_cons]
  have hstep : step s = .next { u with pc := u.pc + 1 } := by
    rw [step_event s e hevent, hu, advance_next]
  exact run_of_step (M := core) k s _ hstep

/-- What is left of a script behind its first event. -/
theorem drop_succ_of_drop {script : List HostEvent} {pc : Nat} {e : HostEvent} {es : List HostEvent}
    (h : script.drop pc = e :: es) : script.drop (pc + 1) = es := by
  rw [← List.tail_drop, h, List.tail_cons]

/-! ## `SETN` -/

/-- Writes to words of `N` replace them one after another. -/
theorem run_writesN (n : Row) (ws : List WordIdx) (k : Nat) (es : List HostEvent) (s : State)
    (h : s.script.drop s.pc = ws.map (fun w => writeLine (.n w) (rowWord n w)) ++ es) :
    Host.Core.run core (k + ws.length) s = Host.Core.run core k
      { s with N := ws.foldl (fun v w => rowWithWord v w (rowWord n w)) s.N, pc := s.pc + ws.length } := by
  induction ws generalizing s with
  | nil => rfl
  | cons w ws ih =>
    rw [List.length_cons, ← Nat.add_assoc, run_event _ _ _ s _ h (perform_writeLine _ _ s), ih _ (drop_succ_of_drop h)]
    simp only [List.foldl_cons, Nat.add_assoc, Nat.add_comm 1]

theorem row_ext (a b : Row) (h : ∀ w, rowWord a w = rowWord b w) : a = b := by
  apply BitVec.eq_of_getLsbD_eq
  intro i hi
  have hbit (v : Row) : v.getLsbD i = (rowWord v ⟨i / 64, by omega⟩).getLsbD (i % 64) := by
    rw [getLsbD_rowWord _ _ _ (Nat.mod_lt _ (by decide)), Nat.div_add_mod]
  rw [hbit a, hbit b, h]

/-- A 256-bit value is its four words, word 0 lowest. -/
theorem encodeState_decodeRow (v : Row) : encodeState (decodeRow v) = v :=
  row_ext _ _ (rowWord_encodeState (decodeRow v))

/-- A value all of whose four words are written is the value written. -/
theorem foldl_rowWithWord (n v : Row) :
    ([0, 1, 2, 3] : List WordIdx).foldl (fun v w => rowWithWord v w (rowWord n w)) v = n := by
  apply row_ext
  intro w
  match w with
  | 0 | 1 | 2 | 3 => simp [rowWord_rowWithWord_same, rowWord_rowWithWord_other]

theorem run_setN (s : State) (n : Row) (hscript : s.script = expandLine (.setN n)) (hpc : s.pc = 0) :
    Host.Core.run core 5 s = .next { s with N := n, NEG := false, pc := 5 } := by
  have hwrites : s.script.drop s.pc =
      ([0, 1, 2, 3] : List WordIdx).map (fun w => writeLine (.n w) (rowWord n w)) ++ [writeLine .nctl 0] := by
    rw [hscript, hpc]
    rfl
  have hsign : s.script.drop (s.pc + 4) = [writeLine .nctl 0] := by
    rw [hscript, hpc]
    rfl
  calc Host.Core.run core 5 s
      = Host.Core.run core 1 { s with N := n, pc := s.pc + 4 } := by
        rw [← foldl_rowWithWord n s.N]
        exact run_writesN n [0, 1, 2, 3] 1 _ s hwrites
    _ = .next { s with N := n, NEG := false, pc := s.pc + 4 + 1 } :=
        run_event 0 _ _ { s with N := n, pc := s.pc + 4 } _ hsign (perform_writeLine .nctl 0 _)
    _ = .next { s with N := n, NEG := false, pc := 5 } := by rw [hpc]

/-! ## `GETROW` -/

/-- The store a `GETROW` line names, 30_encoding.md R79. -/
def storeOfName : MatName → StoreId
  | .t => .TS
  | .k => .KS
  | .ki => .KIS

theorem windowStore_matNumber (m : MatName) : windowStore (matNumber m) = some (storeOfName m) := by
  cases m <;> rfl

/-- The window at word `w` of a row of a valid store, 20_memory.md R61. -/
theorem windowRead_valid (m : MatName) (r : BitVec 8) (w : BitVec 2) (s : State)
    (hv : storeValid (storeOfName m) s = true) :
    windowRead (matNumber m ++ r ++ w) s = rowWord (memRead (storeOfName m) r.toNat s) w.toFin := by
  obtain ⟨hw, hr, hm⟩ := maddr_fields (matNumber m) r w
  simp only [windowRead, hw, hr, hm, windowStore_matNumber, hv, if_true]

/-- `s` after `n` accesses to the window that leave `a` in `MADDR` and observe `os`. -/
def afterWindow (a : BitVec 12) (n : Nat) (os : List Observed) (s : State) : State :=
  { s with MADDR := a, pc := s.pc + n, obs := s.obs ++ os }

theorem afterWindow_afterWindow (a b : BitVec 12) (n k : Nat) (os ps : List Observed) (s : State) :
    afterWindow b k ps (afterWindow a n os s) = afterWindow b (n + k) (os ++ ps) s := by
  simp only [afterWindow, Nat.add_assoc, List.append_assoc]

/-- Word `w` of row `r` of the store a `GETROW` line names, as a read of the window observes it. -/
def rowObserved (m : MatName) (r : BitVec 8) (s : State) (w : BitVec 2) : Observed :=
  .word (rowWord (memRead (storeOfName m) r.toNat s) w.toFin)

/-- The two accesses of `GETROW` for a word of a row of a valid store observe that word. -/
theorem run_getRowWord (m : MatName) (r : BitVec 8) (w : BitVec 2) (k : Nat) (es : List HostEvent) (s : State)
    (hv : storeValid (storeOfName m) s = true) (h : s.script.drop s.pc = getRowWord m r w ++ es) :
    Host.Core.run core (k + 2) s =
      Host.Core.run core k (afterWindow (matNumber m ++ r ++ w) 2 [rowObserved m r s w] s) := by
  have haddress : (windowAddress m r w).setWidth 12 = matNumber m ++ r ++ w := by
    rw [windowAddress, BitVec.setWidth_setWidth_of_le _ (by decide), BitVec.setWidth_eq]
  rw [run_event (k + 1) _ _ s _ h (perform_writeLine _ _ s),
    run_event k _ _ _ _ (drop_succ_of_drop h) (perform_readLine _ _), observe, readReg, haddress,
    windowRead_valid m r w { s with MADDR := matNumber m ++ r ++ w, pc := s.pc + 1 } hv]
  rfl

/-- The accesses of `GETROW` for the words `ws` of a row of a valid store observe those words, in order. -/
theorem run_getRowWords (m : MatName) (r : BitVec 8) (ws : List (BitVec 2)) (s : State)
    (hv : storeValid (storeOfName m) s = true) (h : s.script.drop s.pc = ws.flatMap (getRowWord m r)) :
    ∃ a, Host.Core.run core (2 * ws.length) s
      = .next (afterWindow a (2 * ws.length) (ws.map (rowObserved m r s)) s) := by
  induction ws generalizing s with
  | nil => exact ⟨s.MADDR, by simp [Host.Core.run, afterWindow]⟩
  | cons w ws ih =>
    obtain ⟨a, ha⟩ := ih (afterWindow (matNumber m ++ r ++ w) 2 [rowObserved m r s w] s) hv
      (drop_succ_of_drop (drop_succ_of_drop h))
    refine ⟨a, ?_⟩
    calc Host.Core.run core (2 * ws.length + 2) s
        = Host.Core.run core (2 * ws.length) (afterWindow (matNumber m ++ r ++ w) 2 [rowObserved m r s w] s) :=
          run_getRowWord m r w _ _ s hv h
      _ = .next (afterWindow a (2 + 2 * ws.length) ((w :: ws).map (rowObserved m r s)) s) := by
          rw [ha, afterWindow_afterWindow]
          rfl
      _ = .next (afterWindow a (2 * (w :: ws).length) ((w :: ws).map (rowObserved m r s)) s) := by
          rw [List.length_cons, Nat.mul_succ, Nat.add_comm]

/-- Settles O6: the accesses one after another, each on the register its index names; four words make a row. -/
theorem setnLoadsNAndGetrowReadsRow : Obligations.SetnLoadsNAndGetrowReadsRow := by
  refine ⟨run_setN, fun s m r st hst hv hscript hpc => ?_⟩
  obtain rfl : st = storeOfName m := by rw [hst]; cases m <;> rfl
  have haccesses : s.script.drop s.pc = ([0, 1, 2, 3] : List (BitVec 2)).flatMap (getRowWord m r) := by
    rw [hscript, hpc]
    rfl
  obtain ⟨a, ha⟩ := run_getRowWords m r _ s hv haccesses
  rw [afterWindow, hpc] at ha
  exact ⟨a, _, _, _, _, ha, encodeState_decodeRow _⟩

end Sys2Proof.Machine
end

/-! # `StateStep` and the codec (40_statestep_codec.md R90 to R97) -/
section
namespace Sys2Proof.Machine

/-! ## Rotation -/

theorem rotateLeft_xor {w : Nat} (x y : BitVec w) (r : Nat) :
    (x ^^^ y).rotateLeft r = x.rotateLeft r ^^^ y.rotateLeft r := by
  apply BitVec.eq_of_getLsbD_eq
  intro i hi
  simp only [BitVec.getLsbD_rotateLeft, BitVec.getLsbD_xor, hi, decide_true, Bool.true_and]
  cases decide (i < r % w) <;> rfl

/-- `rotl(x, 45)` written with shifts, as 40_statestep_codec.md R90 writes it. -/
theorem rotateLeft_45 (x : Word) : x.rotateLeft 45 = (x <<< 45) ||| (x >>> 19) := BitVec.rotateLeft_def

/-- A left rotation by 45 takes bit `k` from 19 places above, around the end of the word. -/
theorem getLsbD_rotateLeft_45 (x : Word) (k : Nat) (hk : k < 64) :
    (x.rotateLeft 45).getLsbD k = x.getLsbD ((k + 19) % 64) := by
  rw [BitVec.getLsbD_rotateLeft_of_le (by decide)]
  by_cases h : k < 45
  · have hmod : (k + 19) % 64 = 64 - 45 + k := by omega
    rw [hmod, decide_eq_true h, cond_true]
  · have hmod : (k + 19) % 64 = k - 45 := by omega
    rw [hmod, decide_eq_false h, cond_false, decide_eq_true hk, Bool.true_and]

/-! ## `StateStep` -/

/-- The closed form of 40_statestep_codec.md R91, by words. -/
theorem stateStep_eq (a b c d : Word) :
    stateStep ⟨a, b, c, d⟩
      = ⟨a ^^^ b ^^^ d, a ^^^ b ^^^ c, a ^^^ c ^^^ (b <<< 17), (b ^^^ d).rotateLeft 45⟩ := by
  simp only [stateStep, Words4.mk.injEq]
  refine ⟨?s0, ?s1, ?s2, ?s3⟩
  case s0 | s1 => ac_rfl
  case s2 => rw [BitVec.xor_comm c a]
  case s3 => rw [BitVec.xor_comm d b]

theorem stateStep_xor4 (x y : Words4) : stateStep (xor4 x y) = xor4 (stateStep x) (stateStep y) := by
  obtain ⟨a, b, c, d⟩ := x
  obtain ⟨a', b', c', d'⟩ := y
  simp only [xor4, stateStep_eq, Words4.mk.injEq]
  refine ⟨?s0, ?s1, ?s2, ?s3⟩
  case s0 | s1 => ac_rfl
  case s2 =>
    rw [BitVec.shiftLeft_xor_distrib]
    generalize b <<< 17 = u, b' <<< 17 = u'
    ac_rfl
  case s3 =>
    have hword : b ^^^ b' ^^^ (d ^^^ d') = b ^^^ d ^^^ (b' ^^^ d') := by ac_rfl
    rw [hword, rotateLeft_xor]

/-- Settles O17: the bits and the linearity follow from the closed form by words. -/
theorem stateStepClosedFormAndLinear : Obligations.StateStepClosedFormAndLinear := by
  refine ⟨fun a b c d => ⟨stateStep_eq a b c d, fun k hk => ?bits⟩, stateStep_xor4, rfl⟩
  rw [stateStep_eq]
  refine ⟨?s0, ?s1, ?s2, ?s3⟩
  case s0 | s1 => simp only [BitVec.getLsbD_xor]
  case s2 =>
    have hshift : (b <<< 17).getLsbD k = (decide (17 ≤ k) && b.getLsbD (k - 17)) := by
      simp only [BitVec.getLsbD_shiftLeft, hk, decide_true, Bool.true_and, ← decide_not, Nat.not_lt]
    simp only [BitVec.getLsbD_xor, hshift]
  case s3 => rw [getLsbD_rotateLeft_45 _ k hk, BitVec.getLsbD_xor]

/-! ## The codec -/

/-- Element `64 * w + k` of a codec value, 40_statestep_codec.md R93. -/
theorem getLsbD_encodeState_word (q : Words4) (w : WordIdx) (k : Nat) (hk : k < 64) :
    (encodeState q).getLsbD (64 * w.val + k) = (wordOf q w).getLsbD k := by
  rw [← getLsbD_rowWord _ w k hk, rowWord_encodeState]

theorem decodeRow_encodeState (q : Words4) : decodeRow (encodeState q) = q :=
  words4_ext _ _ (rowWord_encodeState q)

/-! ## The commands -/

theorem exec_step (s : State) : exec .step s = .next { s with S := stateStep s.S } := rfl

theorem exec_enc (s : State) : exec .enc s = .next { s with V := encodeState s.S } := rfl

theorem exec_dec (s : State) : exec .dec s = .next { s with S := decodeRow s.V } := rfl

/-- Settles O20: the commands write what the two functions give, and the functions undo each other. -/
theorem codecRoundTrip : Obligations.CodecRoundTrip := by
  refine ⟨decodeRow_encodeState, encodeState_decodeRow, rowWord_encodeState, fun s t u ht hu => ?encDec,
    fun s t u ht hu => ?decEnc⟩
  case encDec =>
    obtain rfl := Host.Outcome.next.inj ((exec_enc s).symm.trans ht)
    obtain rfl := Host.Outcome.next.inj ((exec_dec _).symm.trans hu)
    exact decodeRow_encodeState s.S
  case decEnc =>
    obtain rfl := Host.Outcome.next.inj ((exec_dec s).symm.trans ht)
    obtain rfl := Host.Outcome.next.inj ((exec_enc _).symm.trans hu)
    exact encodeState_decodeRow s.V

/-- Settles O16: STEP runs `stateStep`, whose rotation is the pair of shifts. -/
theorem stepCommandRunsStateStep : Obligations.StepCommandRunsStateStep := by
  intro s
  simp only [exec_step, stateStep, rotateLeft_45]

/-- Settles O18, with `V0..V3` as the port reads them. -/
theorem encWritesEncodedState : Obligations.EncWritesEncodedState := by
  refine fun s => ⟨encodeState s.S, exec_enc s, getLsbD_encodeState_word s.S, fun w => ?port⟩
  rw [portRead_of_reg _ _ _ (regOfIndex_v w), readReg, rowWord_encodeState]

/-- Settles O19: word `w` of the decoding is word `w` of `V`. -/
theorem decWritesDecodedVector : Obligations.DecWritesDecodedVector :=
  fun s => ⟨decodeRow s.V, exec_dec s, getLsbD_rowWord s.V⟩

end Sys2Proof.Machine
end

/-! # Maps that are linear over GF(2), and their matrices (00_scope.md R10, 41_matrix_build.md R100, R110) -/
section
namespace Sys2Proof.Machine

theorem xorUpTo_eq_single (n i : Nat) (f : Nat → Bool) (hi : i < n) (h : ∀ j < n, j ≠ i → f j = false) :
    xorUpTo n f = f i := by
  induction n with
  | zero => omega
  | succ n ih =>
    rw [xorUpTo_succ]
    by_cases hin : i = n
    · subst hin
      rw [xorUpTo_congr _ _ _ (fun j hj => h j (by omega) (by omega)), xorUpTo_false, Bool.false_xor]
    · rw [ih (by omega) (fun j hj => h j (by omega)), h n (by omega) (by omega), Bool.xor_false]

/-! ## Linearity of the products -/

theorem dot_xor (a b c : Row) : dot a (b ^^^ c) = (dot a b ^^ dot a c) := by
  simp only [dot_eq_xorUpTo, BitVec.getLsbD_xor, Bool.and_xor_distrib_left, xorUpTo_xor]

theorem bitsToRow_map_xor (l : Matrix) (f g : Row → Bool) :
    bitsToRow (l.map (fun x => f x ^^ g x)) = bitsToRow (l.map f) ^^^ bitsToRow (l.map g) := by
  apply BitVec.eq_of_getLsbD_eq
  intro i hi
  simp only [BitVec.getLsbD_xor, getLsbD_bitsToRow, hi, decide_true, Bool.true_and, List.getD, List.getElem?_map]
  cases l[i]? <;> rfl

theorem matVec_xor (M : Matrix) (a b : Row) : matVec M (a ^^^ b) = matVec M a ^^^ matVec M b := by
  simp only [matVec, dot_xor, bitsToRow_map_xor]

/-- Settles O22: each bit of the product is one row's, and AND distributes over XOR. -/
theorem matVecIsLinear : Obligations.MatVecIsLinear := matVec_xor

theorem dot_zero (w : Row) : dot w 0#256 = false := by
  simp [dot_eq_xorUpTo, xorUpTo_false]

/-! ## A linear map is the matrix of its values at the basis vectors -/

theorem combineRows_identity (v : Row) : combineRows v 0 identity = v := by
  apply BitVec.eq_of_getLsbD_eq
  intro c hc
  have hentry : ∀ k < 256, entry identity k c = decide (c = k) := fun k hk => by
    rw [entry, rowOf_identity k hk, getLsbD_basisRow, decide_eq_true hc, Bool.true_and]
  rw [getLsbD_combineRows, length_identity, xorUpTo_eq_single 256 c _ hc]
  · simp [hentry c hc]
  · intro k hk hne
    simp [hentry k hk, hne.symm]

/-- The product with a matrix given by its columns combines the columns. -/
theorem matVec_ofColumns (cols : List Row) (v : Row) (h : cols.length = 256) :
    matVec (ofColumns cols) v = combineRows v 0 cols := by
  apply BitVec.eq_of_getLsbD_eq
  intro r hr
  rw [getLsbD_matVec_eq_xorUpTo _ v r (length_ofColumns cols) hr, getLsbD_combineRows, h]
  refine xorUpTo_congr _ _ _ (fun c hc => ?_)
  rw [entry, getLsbD_ofColumns cols r c hr hc, Bool.and_comm, Nat.zero_add]
  rfl

section
variable {F : Row → Row} (hF : ∀ a b, F (a ^^^ b) = F a ^^^ F b)
include hF

theorem linear_zero : F 0#256 = 0#256 := by
  simpa using hF 0 0

theorem linear_iterate (n : Nat) (a b : Row) : F^[n] (a ^^^ b) = F^[n] a ^^^ F^[n] b := by
  induction n generalizing a b with
  | zero => rfl
  | succ n ih => rw [Function.iterate_succ_apply, hF, ih]; rfl

theorem linear_combineRows (a : Row) (k0 : Nat) (B : Matrix) : F (combineRows a k0 B) = combineRows a k0 (B.map F) := by
  induction B generalizing k0 with
  | nil => exact linear_zero hF
  | cons b bs ih =>
    rw [combineRows_cons, hF, ih, List.map_cons, combineRows_cons]
    cases a.getLsbD k0
    · simp [linear_zero hF]
    · simp

theorem linear_eq_matVec (v : Row) : F v = matVec (ofColumns (identity.map F)) v := by
  rw [matVec_ofColumns _ v (by simp), ← linear_combineRows hF, combineRows_identity]

end

/-- A functional of a row combination. -/
theorem dot_combineRows (w a : Row) (k0 : Nat) (B : Matrix) :
    dot w (combineRows a k0 B) = xorUpTo B.length (fun k => a.getLsbD (k0 + k) && dot w (rowOf B k)) := by
  induction B generalizing k0 with
  | nil => exact dot_zero w
  | cons b bs ih =>
    have hfirst : dot w (if a.getLsbD k0 then b else 0) = (a.getLsbD k0 && dot w b) := by
      cases a.getLsbD k0 <;> simp [dot_zero]
    have hrow : ∀ k, rowOf (b :: bs) (k + 1) = rowOf bs k := fun _ => rfl
    rw [combineRows_cons, dot_xor, hfirst, ih, List.length_cons, xorUpTo_succ_first]
    simp only [hrow, Nat.add_zero, Nat.add_assoc, Nat.add_comm 1]
    rfl

end Sys2Proof.Machine
end

/-! # The transition matrix and the Krylov matrix (41_matrix_build.md R100 to R107, R111) -/
section
namespace Sys2Proof.Machine

/-! ## `TMAT` is `StateStep` on encoded states -/

theorem decodeRow_xor (a b : Row) : decodeRow (a ^^^ b) = xor4 (decodeRow a) (decodeRow b) := by
  simp only [decodeRow, xor4, BitVec.extractLsb'_xor]

theorem encodeState_xor4 (x y : Words4) : encodeState (xor4 x y) = encodeState x ^^^ encodeState y := by
  simp only [encodeState, xor4, ← BitVec.xor_append]

/-- `StateStep` as a map of vectors; `tColumn i` is its value at the basis vector `i`. -/
def encodedStep (v : Row) : Row := encodeState (stateStep (decodeRow v))

theorem encodedStep_xor (a b : Row) : encodedStep (a ^^^ b) = encodedStep a ^^^ encodedStep b := by
  rw [encodedStep, decodeRow_xor, stateStep_xor4, encodeState_xor4]
  rfl

theorem tMat_eq_ofColumns : tMat = ofColumns (identity.map encodedStep) := by
  rw [identity, List.map_map]
  rfl

theorem matVec_tMat (v : Row) : matVec tMat v = encodedStep v := by
  rw [tMat_eq_ofColumns, ← linear_eq_matVec encodedStep_xor]

theorem matVec_tMat_encodeState (q : Words4) : matVec tMat (encodeState q) = encodeState (stateStep q) := by
  rw [matVec_tMat, encodedStep, decodeRow_encodeState]

/-- `T^n` on encoded states is `n` steps. -/
theorem iterate_matVec_tMat (n : Nat) (q : Words4) :
    (matVec tMat)^[n] (encodeState q) = encodeState (stepTimes n q) :=
  (Function.Semiconj.iterate_right (fun p => (matVec_tMat_encodeState p).symm) n q).symm

theorem encodeState_first : encodeState ⟨1, 0, 0, 0⟩ = basisRow 0 := by decide

/-- Store `TS` holds `TMAT` once EnsureT has run, from every state that meets the invariant. -/
theorem readMatrix_ensureT {s : State} (h : MatrixInv s) : readMatrix .TS (ensureT s) = tMat :=
  h.ensureT.ts (ensureT_T_VALID s)

theorem exec_mvmulT (s : State) : exec .mvmulT s = .next (multiplyV .TS (ensureT s)) := rfl

theorem ensureT_V (s : State) : (ensureT s).V = s.V := by
  rcases ensureT_cases s with ⟨_, e⟩ | ⟨_, e⟩ <;> rw [e]
  rfl

/-- Settles O25: `StateStep` on vectors is linear, and `TMAT` has its values at the basis vectors as columns. -/
theorem transitionMatrixIsStateStep : Obligations.TransitionMatrixIsStateStep := by
  refine ⟨fun q => (matVec_tMat_encodeState q).symm,
    fun s hs => ⟨_, _, _, _, exec_enc s, exec_mvmulT _, exec_step s, exec_enc _, ?_⟩⟩
  have hinv : MatrixInv { s with V := encodeState s.S } := ((inv_iff s).mp hs.inv).registers
  rw [multiplyV_V, readMatrix_ensureT hinv, ensureT_V, matVec_tMat_encodeState]

/-! ## The ones of `TMAT` -/

/-- The bits of a basis vector, word by word. -/
theorem getLsbD_decodeRow_basisRow (c k : Nat) (hk : k < 64) :
    (decodeRow (basisRow c)).w0.getLsbD k = decide (c = k) ∧
    (decodeRow (basisRow c)).w1.getLsbD k = decide (c = 64 + k) ∧
    (decodeRow (basisRow c)).w2.getLsbD k = decide (c = 128 + k) ∧
    (decodeRow (basisRow c)).w3.getLsbD k = decide (c = 192 + k) := by
  have hword : ∀ (w : WordIdx) (i : Nat), i = 64 * w.val + k →
      (rowWord (basisRow c) w).getLsbD k = decide (c = i) := by
    rintro w _ rfl
    rw [getLsbD_rowWord _ w k hk, getLsbD_basisRow, decide_eq_true (by omega : 64 * w.val + k < 256), Bool.true_and]
    exact decide_eq_decide.mpr eq_comm
  exact ⟨hword 0 k (Nat.zero_add k).symm, hword 1 _ rfl, hword 2 _ rfl, hword 3 _ rfl⟩

/-- Element `(64 * w + k, c)` of `TMAT` is bit `k` of word `w` of the stepped basis state `c`. -/
theorem entry_tMat (w : WordIdx) (r k c : Nat) (hr : r = 64 * w.val + k) (hk : k < 64) (hc : c < 256) :
    entry tMat r c = (wordOf (stateStep (decodeRow (basisRow c))) w).getLsbD k := by
  subst hr
  rw [entry, getLsbD_rowOf_eq_matVec tMat _ c length_tMat (by omega) hc, matVec_tMat, encodedStep,
    getLsbD_encodeState_word _ w k hk]

/-- The bits of the stepped basis state `c`, from the closed form of `StateStep` (40_statestep_codec.md R91). -/
theorem entry_tMat_eq_xor (k c : Nat) (hk : k < 64) (hc : c < 256) :
    entry tMat k c = (decide (c = k) ^^ decide (c = 64 + k) ^^ decide (c = 192 + k)) ∧
    entry tMat (64 + k) c = (decide (c = k) ^^ decide (c = 64 + k) ^^ decide (c = 128 + k)) ∧
    entry tMat (128 + k) c
      = (decide (c = k) ^^ decide (c = 128 + k) ^^ (decide (17 ≤ k) && decide (c = 64 + (k - 17)))) ∧
    entry tMat (192 + k) c = (decide (c = 64 + (k + 19) % 64) ^^ decide (c = 192 + (k + 19) % 64)) := by
  obtain ⟨s0, s1, s2, s3⟩ := (stateStepClosedFormAndLinear.1 (decodeRow (basisRow c)).w0 (decodeRow (basisRow c)).w1
    (decodeRow (basisRow c)).w2 (decodeRow (basisRow c)).w3).2 k hk
  obtain ⟨b0, b1, b2, b3⟩ := getLsbD_decodeRow_basisRow c k hk
  obtain ⟨_, b1', _, _⟩ := getLsbD_decodeRow_basisRow c (k - 17) (by omega)
  obtain ⟨_, b1'', _, b3''⟩ := getLsbD_decodeRow_basisRow c ((k + 19) % 64) (by omega)
  rw [b0, b1, b3] at s0
  rw [b0, b1, b2] at s1
  rw [b0, b2, b1'] at s2
  rw [b1'', b3''] at s3
  exact ⟨(entry_tMat 0 k k c (Nat.zero_add k).symm hk hc).trans s0, (entry_tMat 1 _ k c rfl hk hc).trans s1,
    (entry_tMat 2 _ k c rfl hk hc).trans s2, (entry_tMat 3 _ k c rfl hk hc).trans s3⟩

/-- Where no two of three terms are 1 together, their XOR is their OR. -/
theorem xor_eq_or_of_disjoint (p q r : Bool)
    (h : ¬ (p = true ∧ q = true) ∧ ¬ (p = true ∧ r = true) ∧ ¬ (q = true ∧ r = true)) :
    (p ^^ q ^^ r) = (p || q || r) := by
  revert p q r
  decide

/-- Settles O24: the bits of `StateStep` at a basis state, where at most one term of each XOR is 1. -/
theorem transitionMatrixClosedForm : Obligations.TransitionMatrixClosedForm := by
  intro k hk c hc
  obtain ⟨h0, h1, h2, h3⟩ := entry_tMat_eq_xor k c hk hc
  have hshift : (decide (17 ≤ k) && decide (c = 64 + (k - 17)))
      = (decide (17 ≤ k) && decide (c = 64 + k - 17)) := by
    by_cases h : 17 ≤ k
    · rw [Nat.add_sub_assoc h]
    · simp [h]
  rw [h0, h1, h2, h3, hshift]
  refine ⟨xor_eq_or_of_disjoint _ _ _ ?row0, xor_eq_or_of_disjoint _ _ _ ?row1, xor_eq_or_of_disjoint _ _ _ ?row2,
    ?row3⟩
  case row0 | row1 | row2 =>
    simp only [Bool.and_eq_true, decide_eq_true_eq]
    omega
  case row3 =>
    have hor := xor_eq_or_of_disjoint (decide (c = 64 + (k + 19) % 64)) (decide (c = 192 + (k + 19) % 64)) false
      ⟨by simp only [decide_eq_true_eq]; omega, fun h => Bool.false_ne_true h.2, fun h => Bool.false_ne_true h.2⟩
    rwa [Bool.xor_false, Bool.or_false] at hor

/-! ## BUILDT -/

theorem readRow_writeRows (m : StoreId) (st : RowStore) (M : Matrix) (r : Nat) (hr : r < 256) :
    readRow m (writeRows st M) r = rowOf M r := by
  rw [writeRows, readRow_foldl_writeRow, if_pos (List.mem_range.mpr hr)]

theorem exec_buildT (s : State) : exec .buildT s = .next (doBuildT s) := rfl

/-- Settles O23: the store reads back `TMAT`, whose columns are the stepped basis states. -/
theorem buildTFillsStoreWithSteppedBasis : Obligations.BuildTFillsStoreWithSteppedBasis := by
  refine fun s => ⟨writeRows s.mem.TS tMat, exec_buildT s, fun r hr c hc => ?_⟩
  rw [readRow_writeRows .TS _ tMat r hr, getLsbD_rowOf_eq_matVec tMat r c length_tMat hr hc, matVec_tMat]
  rfl

/-! ## The Krylov columns and BUILDK -/

/-- The vectors `v, M v, M (M v), ...` are the iterates. -/
theorem krylov_eq_map (M : Matrix) (n : Nat) (v : Row) :
    krylov M n v = (List.range n).map (fun i => (matVec M)^[i] v) := by
  induction n generalizing v with
  | zero => rfl
  | succ n ih => rw [krylov, ih, List.range_succ_eq_map, List.map_cons, List.map_map]; rfl

theorem rowOf_krylov (M : Matrix) (n c : Nat) (v : Row) (hc : c < n) :
    rowOf (krylov M n v) c = (matVec M)^[c] v := by
  simp [rowOf, krylov_eq_map, List.getD, hc]

theorem columnOf_krylovMatrix (M : Matrix) (c : Nat) (hc : c < 256) :
    columnOf (krylovMatrix M) c = (matVec M)^[c] (basisRow 0) := by
  rw [krylovMatrix, columnOf_ofColumns _ c hc, ← rowOf, rowOf_krylov M 256 c _ hc]

/-- Settles O27: the columns are the iterates of `TMAT` at `e0`, which encodes `(1, 0, 0, 0)`. -/
theorem krylovColumnsAreSteppedStates : Obligations.KrylovColumnsAreSteppedStates := by
  intro c hc
  rw [kMat, columnOf_krylovMatrix tMat c hc, ← encodeState_first, iterate_matVec_tMat, decodeRow_encodeState]

theorem exec_buildK (s : State) : exec .buildK s = .next (doBuildK (ensureT s)) := rfl

theorem readMatrix_TS_doBuildK (s : State) : readMatrix .TS (doBuildK s) = readMatrix .TS s :=
  readMatrix_congr _ _ _ (fun r _ => memRead_doBuildK_other .TS r s (by decide))

/-- DoBuildK writes store `KS` and `K_VALID`, and nothing else. -/
theorem doBuildK_writes_KS (s : State) :
    ∃ ks, doBuildK s = { s with mem := { s.mem with KS := ks }, K_VALID := true } :=
  ⟨_, rfl⟩

/-- Settles O26: `KS` reads back the Krylov matrix of the matrix in `TS`, which DoBuildK leaves there. -/
theorem buildKFillsStoreWithKrylovColumns : Obligations.BuildKFillsStoreWithKrylovColumns := by
  refine fun s => ⟨doBuildK (ensureT s), exec_buildK s, ?first, fun c hc => ?next, fun hT => ?valid,
    fun hT => ?invalid⟩
  case first => rw [readMatrix_doBuildK, columnOf_krylovMatrix _ 0 (by decide)]; rfl
  case next =>
    rw [readMatrix_doBuildK, readMatrix_TS_doBuildK, columnOf_krylovMatrix _ (c + 1) (by omega),
      columnOf_krylovMatrix _ c (by omega), Function.iterate_succ_apply']
  case valid =>
    rw [ensureT_valid s hT]
    exact doBuildK_writes_KS s
  case invalid =>
    obtain ⟨ks, hks⟩ := doBuildK_writes_KS (doBuildT s)
    exact ⟨doBuildT s, ks, exec_buildT s, by rw [ensureT_invalid s hT, hks]⟩

end Sys2Proof.Machine
end

/-! # MVMUL: what it needs first, and the product (41_matrix_build.md R108, R109) -/
section
namespace Sys2Proof.Machine

/-! ## An Ensure step finds its work done by the builders -/

theorem ensureT_ensureT (s : State) : ensureT (ensureT s) = ensureT s := ensureT_valid _ (ensureT_T_VALID s)

theorem ensureK_ensureT (s : State) : ensureK (ensureT s) = ensureK s := by
  simp only [ensureK, ensureT_ensureT]

theorem ensureK_ensureK (s : State) : ensureK (ensureK s) = ensureK s :=
  ensureK_valid _ (ensureK_T_VALID s) (ensureK_K_VALID s)

theorem ensureKI_congr (s t : State) (h : ensureK s = ensureK t) : ensureKI s = ensureKI t := by
  simp only [ensureKI, h]

theorem ensureT_K_VALID (s : State) : (ensureT s).K_VALID = s.K_VALID :=
  congrArg FlagValues.K_VALID (flagsOf_ensureT s)

theorem ensureK_KI_VALID (s : State) : (ensureK s).KI_VALID = s.KI_VALID :=
  congrArg FlagValues.KI_VALID (flagsOf_ensureK s)

theorem ensureK_invalid (s : State) (h : s.K_VALID = false) : ensureK s = doBuildK (ensureT s) := by
  simp [ensureK, ensureT_K_VALID, h]

theorem ensureKI_invalid (s : State) (h : s.KI_VALID = false) : ensureKI s = doInvK (ensureK s) := by
  simp [ensureKI, ensureK_KI_VALID, h]

/-! ## The commands -/

theorem exec_invK (s : State) : exec .invK s = .next (stageState (doInvK (ensureK s))) := rfl

theorem exec_mvmulK (s : State) : exec .mvmulK s = .next (multiplyV .KS (ensureK s)) := rfl

theorem exec_mvmulKI (s : State) :
    exec .mvmulKI s = .next (stageState (andThen (ensureKI s) (fun t => .done (multiplyV .KIS t)))) := rfl

theorem exec_mvmulK_congr (s t : State) (h : ensureK s = ensureK t) : exec .mvmulK s = exec .mvmulK t := by
  rw [exec_mvmulK, exec_mvmulK, h]

theorem exec_mvmulKI_congr (s t : State) (h : ensureK s = ensureK t) : exec .mvmulKI s = exec .mvmulKI t := by
  rw [exec_mvmulKI, exec_mvmulKI, ensureKI_congr s t h]

/-- With its matrices valid MVMUL.KI is the product alone. -/
theorem exec_mvmulKI_valid (s : State) (hT : s.T_VALID = true) (hK : s.K_VALID = true) (hKI : s.KI_VALID = true) :
    exec .mvmulKI s = .next (multiplyV .KIS s) := by
  rw [exec_mvmulKI, ensureKI_valid s hT hK hKI, andThen_done, stageState_done]

theorem getLsbD_matVec_readMatrix (m : StoreId) (s : State) (v : Row) (r : Nat) (hr : r < 256) :
    (matVec (readMatrix m s) v).getLsbD r = xorUpTo 256 (fun c => (memRead m r s).getLsbD c && v.getLsbD c) := by
  rw [getLsbD_matVec_eq_xorUpTo _ v r (length_readMatrix m s) hr]
  simp only [entry, rowOf_readMatrix m s r hr]

/-- A command that is the product alone writes `V`, bit by bit, and nothing else. -/
theorem exec_of_multiplyV (i : Instr) (m : StoreId) (s : State) (h : exec i s = .next (multiplyV m s)) :
    ∃ v, exec i s = .next { s with V := v } ∧
      ∀ r < 256, v.getLsbD r = xorUpTo 256 (fun c => (memRead m r s).getLsbD c && s.V.getLsbD c) :=
  ⟨matVec (readMatrix m s) s.V, h, getLsbD_matVec_readMatrix m s s.V⟩

theorem exec_invK_V (s u : State) (h : exec .invK s = .next u) : u.V = s.V :=
  congrArg DataRegs.V (dataOf_exec .invK s u (by decide) h)

/-- Where the inverse is not valid MVMUL.KI goes on from what INVK leaves, unless INVK raised. -/
theorem exec_mvmulKI_of_invK (s u : State) (hKI : s.KI_VALID = false) (h : exec .invK s = .next u) :
    exec .mvmulKI s = if u.KI_VALID then exec .mvmulKI u else .next u := by
  obtain ⟨t, hflags, hend⟩ := doInvK_split (ensureK s)
  obtain rfl : t = u :=
    (stageState_of_split hend).symm.trans (Host.Outcome.next.inj ((exec_invK s).symm.trans h))
  rw [exec_mvmulKI s, ensureKI_invalid s hKI]
  rcases hend with ⟨hdone, hvalid⟩ | ⟨hraised, hinvalid⟩
  · have hT : t.T_VALID = true := (congrArg FlagValues.T_VALID hflags).trans (ensureK_T_VALID s)
    have hK : t.K_VALID = true := (congrArg FlagValues.K_VALID hflags).trans (ensureK_K_VALID s)
    rw [hdone, if_pos hvalid, exec_mvmulKI_valid t hT hK hvalid]
    rfl
  · rw [hraised, hinvalid]
    rfl

/-- Settles O29: what is valid is used as it stands, and what is missing is built as its own command builds it. -/
theorem mvmulMultipliesVByItsMatrix : Obligations.MvmulMultipliesVByItsMatrix := by
  refine fun s => ⟨fun hT => ?T, fun hT u hu => ?buildT, fun hT hK => ?K, fun hK u hu => ?buildK,
    fun hT hK hKI => ?KI, fun hKI u hu => ⟨exec_mvmulKI_of_invK s u hKI hu, exec_invK_V s u hu⟩⟩
  case T => exact exec_of_multiplyV .mvmulT .TS s (by rw [exec_mvmulT, ensureT_valid s hT])
  case K => exact exec_of_multiplyV .mvmulK .KS s (by rw [exec_mvmulK, ensureK_valid s hT hK])
  case KI => exact exec_of_multiplyV .mvmulKI .KIS s (exec_mvmulKI_valid s hT hK hKI)
  case buildT =>
    obtain rfl : ensureT s = u := by
      rw [ensureT_invalid s hT]
      exact Host.Outcome.next.inj ((exec_buildT s).symm.trans hu)
    have hK := (ensureK_ensureT s).symm
    exact ⟨by rw [exec_mvmulT, exec_mvmulT, ensureT_ensureT], exec_mvmulK_congr _ _ hK, exec_mvmulKI_congr _ _ hK⟩
  case buildK =>
    obtain rfl : ensureK s = u := by
      rw [ensureK_invalid s hK]
      exact Host.Outcome.next.inj ((exec_buildK s).symm.trans hu)
    have hK := (ensureK_ensureK s).symm
    exact ⟨exec_mvmulK_congr _ _ hK, exec_mvmulKI_congr _ _ hK⟩

end Sys2Proof.Machine
end

/-! # `e0` is a cyclic vector of `TMAT` (41_matrix_build.md R113)

A row `w` that is orthogonal to `T^i e0` for `i < 255` and not to `T^255 e0` proves the 256 vectors independent: in a
combination that vanishes, the last vector with coefficient 1 is moved to `T^255 e0` by a power of `T`, and `w` then
sees its coefficient alone. -/
section
namespace Sys2Proof.Machine

/-! ## Independence from one functional -/

/-- `w` is orthogonal to the first 255 iterates of `M` at `u`, and not to the next. -/
def SeesLastIterate (M : Matrix) (u w : Row) : Prop :=
  ∀ i ≤ 255, dot w ((matVec M)^[i] u) = decide (i = 255)

theorem rowOf_map (F : Row → Row) (B : Matrix) (i : Nat) (hi : i < B.length) : rowOf (B.map F) i = F (rowOf B i) := by
  simp [rowOf, List.getD, hi]

/-- What `w` sees of a combination of the iterates after `m` more applications of `M`. -/
theorem dot_iterate_combineRows_krylov (M : Matrix) (u w a : Row) (m : Nat) :
    dot w ((matVec M)^[m] (combineRows a 0 (krylov M 256 u)))
      = xorUpTo 256 (fun i => a.getLsbD i && dot w ((matVec M)^[m + i] u)) := by
  rw [linear_combineRows (linear_iterate (matVec_xor M) m), dot_combineRows, List.length_map, length_krylov]
  refine xorUpTo_congr _ _ _ (fun i hi => ?_)
  rw [rowOf_map _ _ i (by rwa [length_krylov]), rowOf_krylov M 256 i u hi, ← Function.iterate_add_apply, Nat.zero_add]

theorem krylov_independent (M : Matrix) (u w a : Row) (hw : SeesLastIterate M u w)
    (ha : combineRows a 0 (krylov M 256 u) = 0#256) : a = 0#256 := by
  have hlast : ∀ m ≤ 255, (∀ i, 255 - m < i → a.getLsbD i = false) → a.getLsbD (255 - m) = false := by
    intro m hm habove
    have hsum := dot_iterate_combineRows_krylov M u w a m
    rw [ha, linear_zero (linear_iterate (matVec_xor M) m), dot_zero,
      xorUpTo_eq_single 256 (255 - m) _ (by omega)] at hsum
    · rw [Nat.add_sub_cancel' hm, hw 255 le_rfl] at hsum
      simpa using hsum.symm
    · intro i _ hne
      rcases Nat.lt_or_gt_of_ne hne with hlt | hgt
      · rw [hw (m + i) (by omega), decide_eq_false (by omega), Bool.and_false]
      · rw [habove i hgt, Bool.false_and]
  have hbits : ∀ n ≤ 256, ∀ i, 256 - n ≤ i → a.getLsbD i = false := by
    intro n hn
    induction n with
    | zero => exact fun i hi => BitVec.getLsbD_of_ge a i hi
    | succ n ih =>
      intro i hi
      by_cases htop : i = 255 - n
      · subst htop
        exact hlast n (by omega) (fun j hj => ih (by omega) j (by omega))
      · exact ih (by omega) i (by omega)
  exact BitVec.eq_of_getLsbD_eq (fun i _ => by rw [hbits 256 le_rfl i (by omega), BitVec.getLsbD_zero])

/-! ## The parity of a row, by folding halves -/

/-- The XOR of `2^k` bits is bit 0 once the upper half has been folded onto the lower half `k` times. -/
def foldBits : Nat → Row → Row
  | 0, x => x
  | k + 1, x => foldBits k (x ^^^ x >>> 2 ^ k)

theorem xorUpTo_add (m n : Nat) (f : Nat → Bool) :
    xorUpTo (m + n) f = (xorUpTo m f ^^ xorUpTo n (fun i => f (m + i))) := by
  induction n with
  | zero => simp [xorUpTo]
  | succ n ih => rw [← Nat.add_assoc, xorUpTo_succ, ih, xorUpTo_succ, Bool.xor_assoc]

theorem xorUpTo_eq_foldBits (k : Nat) (x : Row) : xorUpTo (2 ^ k) x.getLsbD = (foldBits k x).getLsbD 0 := by
  induction k generalizing x with
  | zero => simp [xorUpTo, foldBits]
  | succ k ih =>
    rw [foldBits, ← ih, Nat.pow_succ, Nat.mul_two, xorUpTo_add, ← xorUpTo_xor]
    exact xorUpTo_congr _ _ _ (fun i _ => by rw [BitVec.getLsbD_xor, BitVec.getLsbD_ushiftRight])

theorem dot_eq_foldBits (a b : Row) : dot a b = (foldBits 8 (a &&& b)).getLsbD 0 := by
  rw [dot_eq_xorUpTo, ← xorUpTo_eq_foldBits]
  exact xorUpTo_congr _ _ _ (fun i _ => BitVec.getLsbD_and.symm)

/-! ## The functional for `TMAT` and `e0` -/

/-- A run of `n` steps along which `w` is orthogonal to every encoded state but the last. -/
def seesOnlyLast (w : Row) : Nat → Words4 → Bool
  | 0, q => (foldBits 8 (w &&& encodeState q)).getLsbD 0
  | n + 1, q => !(foldBits 8 (w &&& encodeState q)).getLsbD 0 && seesOnlyLast w n (stateStep q)

theorem dot_of_seesOnlyLast (w : Row) (n : Nat) (q : Words4) (h : seesOnlyLast w n q = true) :
    ∀ i ≤ n, dot w (encodeState (stepTimes i q)) = decide (i = n) := by
  induction n generalizing q with
  | zero =>
    intro i hi
    obtain rfl : i = 0 := by omega
    rw [dot_eq_foldBits]
    exact h
  | succ n ih =>
    rw [seesOnlyLast, Bool.and_eq_true, Bool.not_eq_true', ← dot_eq_foldBits] at h
    obtain ⟨hfirst, hrest⟩ := h
    intro i hi
    cases i with
    | zero => exact hfirst
    | succ i => exact (ih (stateStep q) hrest i (by omega)).trans (decide_eq_decide.mpr Nat.succ_inj.symm)

/-- The row that sees only `T^255 e0` among the first 256 iterates: row 255 of the inverse of `KMAT`. -/
def lastIterateRow : Row := 0x2f48cc06f1fcb8890cb1cce898a28cfdc8b9e8b5b93b121df17e56b8f91f1eb2#256

theorem lastIterateRow_seesOnlyLast : seesOnlyLast lastIterateRow 255 ⟨1, 0, 0, 0⟩ = true := by decide +kernel

theorem lastIterateRow_seesLastIterate : SeesLastIterate tMat (basisRow 0) lastIterateRow := by
  intro i hi
  rw [← encodeState_first, iterate_matVec_tMat]
  exact dot_of_seesOnlyLast _ 255 _ lastIterateRow_seesOnlyLast i hi

theorem matVec_kMat (a : Row) : matVec kMat a = combineRows a 0 (krylov tMat 256 (basisRow 0)) :=
  matVec_ofColumns _ a (length_krylov _ _ _)

/-- The map of `KMAT` is injective. -/
theorem matVec_kMat_injective : Function.Injective (matVec kMat) := by
  intro a b hab
  have hzero : combineRows (a ^^^ b) 0 (krylov tMat 256 (basisRow 0)) = 0#256 := by
    rw [← matVec_kMat, matVec_xor, hab, BitVec.xor_self]
  exact BitVec.xor_eq_zero_iff.mp (krylov_independent tMat _ _ _ lastIterateRow_seesLastIterate hzero)

/-- The map of `KMAT` is onto, there being finitely many vectors. -/
theorem matVec_kMat_bijective : Function.Bijective (matVec kMat) :=
  Finite.injective_iff_bijective.mp matVec_kMat_injective

/-- Settles O28: `KMAT` times `a` is the combination of the Krylov vectors that `a` names, and the map of `KMAT` is a
bijection. -/
theorem krylovVectorsFormBasis : Obligations.KrylovVectorsFormBasis := by
  intro v
  simp only [← krylov_eq_map, ← matVec_kMat]
  exact matVec_kMat_bijective.existsUnique v

end Sys2Proof.Machine
end

/-! # Gauss-Jordan elimination that fails names a singular matrix (42_inversion.md R116, R119)

The loop keeps two facts: a vector that is orthogonal to every row of the left half is in the kernel of `A`, and the
columns below `c` are those of the identity. Where the pivot scan of column `c` fails, column `c` is a combination of
those before it, and so a vector of that kernel is at hand. -/
section
namespace Sys2Proof.Machine

/-! ## The kernel along the loop -/

/-- Every vector that is orthogonal to all rows of the left half is in the kernel of `A`. -/
def KernelWithin (A : Matrix) (rows : Augmented) : Prop :=
  ∀ v : Row, (∀ r < 256, dot (pairAt rows r).1 v = false) → matVec A v = 0#256

theorem matVec_eq_zero_iff (A : Matrix) (v : Row) (hA : A.length = 256) :
    matVec A v = 0#256 ↔ ∀ r < 256, dot (rowOf A r) v = false := by
  constructor
  · intro h r hr
    rw [← getLsbD_matVec A v r hA hr, h, BitVec.getLsbD_zero]
  · intro h
    apply BitVec.eq_of_getLsbD_eq
    intro r hr
    rw [getLsbD_matVec A v r hA hr, h r hr, BitVec.getLsbD_zero]

theorem kernelWithin_zip_identity (A : Matrix) (hA : A.length = 256) : KernelWithin A (A.zip identity) := by
  intro v hv
  refine (matVec_eq_zero_iff A v hA).mpr (fun r hr => ?_)
  have h := hv r hr
  rwa [pairAt_zip A identity r (by omega) (by rw [length_identity]; exact hr)] at h

theorem kernelWithin_swapRows (A : Matrix) (c p : Nat) (rows : Augmented) (hl : rows.length = 256) (hc : c < 256)
    (hp : p < 256) (h : KernelWithin A rows) : KernelWithin A (swapRows rows p c) := by
  intro v hv
  have hat : ∀ r, pairAt (swapRows rows p c) r
      = if r = c then pairAt rows p else if r = p then pairAt rows c else pairAt rows r :=
    fun r => pairAt_swapRows rows p c r (by omega) (by omega)
  refine h v (fun r hr => ?_)
  by_cases hrp : r = p
  · have hv := hv c hc
    rw [hat, if_pos rfl] at hv
    rwa [hrp]
  · by_cases hrc : r = c
    · have hv := hv p hp
      rw [hat, if_pos rfl, if_neg (by omega)] at hv
      rwa [hrc]
    · have hv := hv r hr
      rwa [hat, if_neg hrc, if_neg hrp] at hv

theorem dot_xor_left (a b v : Row) : dot (a ^^^ b) v = (dot a v ^^ dot b v) := by
  rw [dot_comm, dot_xor, dot_comm v a, dot_comm v b]

/-- The pivot row is not changed, so the elimination can be undone. -/
theorem kernelWithin_pivotStep (A : Matrix) (c p : Nat) (rows : Augmented) (hl : rows.length = 256) (hc : c < 256)
    (hp : p < 256) (h : KernelWithin A rows) : KernelWithin A (pivotStep c p rows) := by
  intro v hv
  have hpivot : dot (pairAt (swapRows rows p c) c).1 v = false := by
    have hv := hv c hc
    rwa [pairAt_pivotStep c p c rows (by omega), if_neg (fun hne => hne.1 rfl)] at hv
  refine kernelWithin_swapRows A c p rows hl hc hp h v (fun r hr => ?_)
  have hv := hv r hr
  rw [pairAt_pivotStep c p r rows (by omega)] at hv
  split_ifs at hv
  · rwa [dot_xor_left, hpivot, Bool.xor_false] at hv
  · exact hv

/-- A loop that fails at column `c` stands at rows with identity columns below `c` and no pivot in column `c`. -/
theorem gaussJordanLoop_fail_rows (A : Matrix) (n c column : Nat) (rows : Augmented) (hn : c + n = 256)
    (hl : rows.length = 256) (hA : KernelWithin A rows) (hI : UnitColumns c rows)
    (h : gaussJordanLoop (List.range' c n) rows = .fail column) :
    ∃ last : Augmented, last.length = 256 ∧ KernelWithin A last ∧ UnitColumns column last ∧
      findPivot last column = none := by
  induction n generalizing c rows with
  | zero => cases h
  | succ n ih =>
    rw [List.range'_succ] at h
    cases hp : findPivot rows c with
    | none =>
      rw [gaussJordanLoop_fail c _ rows hp] at h
      cases h
      exact ⟨rows, hl, hA, hI, hp⟩
    | some p =>
      obtain ⟨_, hp256, _⟩ := findPivot_some rows c p hp
      rw [gaussJordanLoop_cons c p _ rows hp] at h
      exact ih (c + 1) (pivotStep c p rows) (by omega) (by rw [length_pivotStep, hl])
        (kernelWithin_pivotStep A c p rows hl (by omega) hp256 hA) (unitColumns_pivotStep c p rows hl hp hI) h

/-! ## The vector the failing column gives -/

/-- Column `c` of the left half. -/
def leftColumn (rows : Augmented) (c : Nat) : Row := columnOf (rows.map Prod.fst) c

theorem getLsbD_leftColumn (rows : Augmented) (c r : Nat) (hl : rows.length = 256) (hr : r < 256) :
    (leftColumn rows c).getLsbD r = (pairAt rows r).1.getLsbD c := by
  rw [leftColumn, getLsbD_columnOf _ c r hr]
  simp [rowOf, pairAt, List.getD, hl, hr]

/-- Without a pivot in column `c`, the column is the combination of the identity columns below `c` that its own bits
name. -/
theorem dot_leftColumn (rows : Augmented) (c r : Nat) (hl : rows.length = 256) (hI : UnitColumns c rows)
    (hnone : findPivot rows c = none) (hr : r < 256) :
    dot (pairAt rows r).1 (leftColumn rows c) = (pairAt rows r).1.getLsbD c := by
  have hunit : dot (pairAt rows r).1 (leftColumn rows c) = dot (basisRow r) (leftColumn rows c) := by
    rw [dot_eq_xorUpTo, dot_eq_xorUpTo]
    refine xorUpTo_congr _ _ _ (fun k hk => ?_)
    by_cases hkc : k < c
    · rw [hI k hkc r hr, getLsbD_basisRow, decide_eq_true hk, Bool.true_and]
      exact congrArg (· && _) (decide_eq_decide.mpr eq_comm)
    · have hbit : (leftColumn rows c).getLsbD k = false := by
        rw [getLsbD_leftColumn rows c k hl hk]
        exact (findPivot_none rows c).mp hnone k (by omega) hk
      rw [hbit, Bool.and_false, Bool.and_false]
  rw [hunit, dot_comm, dot_basisRow _ r hr, getLsbD_leftColumn rows c r hl hr]

/-- An elimination that fails leaves a vector other than 0 in the kernel of the matrix. -/
theorem gaussJordan_fail_kernel (A : Matrix) (c : Nat) (hA : A.length = 256) (h : gaussJordan A = .fail c) :
    ∃ v ≠ 0#256, matVec A v = 0#256 := by
  have hc := gaussJordan_fail_lt A c h
  rw [gaussJordan, List.range_eq_range'] at h
  obtain ⟨rows, hl, hkernel, hI, hnone⟩ := gaussJordanLoop_fail_rows A 256 0 c (A.zip identity) rfl
    (length_zip_identity A hA) (kernelWithin_zip_identity A hA) (fun j hj => absurd hj (Nat.not_lt_zero j)) h
  refine ⟨leftColumn rows c ^^^ basisRow c, fun hzero => ?_, hkernel _ (fun r hr => ?_)⟩
  · have hbit : (leftColumn rows c ^^^ basisRow c).getLsbD c = true := by
      rw [BitVec.getLsbD_xor, getLsbD_leftColumn rows c c hl hc, (findPivot_none rows c).mp hnone c le_rfl hc,
        getLsbD_basisRow, decide_eq_true hc, decide_eq_true rfl]
      rfl
    rw [hzero, BitVec.getLsbD_zero] at hbit
    exact Bool.false_ne_true hbit
  · rw [dot_xor, dot_leftColumn rows c r hl hI hnone hr, dot_basisRow _ c hc, Bool.xor_self]

/-- A matrix with a left inverse takes only 0 to 0. -/
theorem kernel_of_left_inverse (A X : Matrix) (v : Row) (hA : A.length = 256) (hX : X.length = 256)
    (h : matMul X A = identity) (hv : matVec A v = 0#256) : v = 0#256 := by
  rw [← matVec_identity v, ← h, matVec_matMul X A v hX hA, hv, linear_zero (matVec_xor X)]

/-- Settles O32: what the loop keeps gives the inverse where it succeeds and a vector of the kernel where it fails. -/
theorem gaussJordanInvertsOrProvesSingular : Obligations.GaussJordanInvertsOrProvesSingular := by
  intro A hA
  cases h : gaussJordan A with
  | ok X =>
    obtain ⟨hX, hinverse⟩ := gaussJordan_ok_inverse A X hA h
    exact ⟨hX, hinverse.right, hinverse.left⟩
  | fail c =>
    obtain ⟨v, hv, hAv⟩ := gaussJordan_fail_kernel A c hA h
    refine ⟨gaussJordan_fail_lt A c h, fun X hX => ⟨fun hright => hv ?_, fun hleft => hv ?_⟩⟩
    · exact kernel_of_left_inverse A X v hA hX (isInverse_of_left X A hX hA hright).right hAv
    · exact kernel_of_left_inverse A X v hA hX hleft hAv

end Sys2Proof.Machine
end

/-! # INVK: the inverse in store `KIS`, and that it is always found (42_inversion.md R117, R118, R120) -/
section
namespace Sys2Proof.Machine

/-! ## INVK in every state -/

theorem exec_invK_congr (s t : State) (h : ensureK s = ensureK t) : exec .invK s = exec .invK t := by
  rw [exec_invK, exec_invK, h]

theorem ensureT_of_buildT (s u : State) (hT : s.T_VALID = false) (hu : exec .buildT s = .next u) : ensureT s = u := by
  rw [ensureT_invalid s hT]
  exact Host.Outcome.next.inj ((exec_buildT s).symm.trans hu)

theorem ensureK_of_buildK (s u : State) (hK : s.K_VALID = false) (hu : exec .buildK s = .next u) : ensureK s = u := by
  rw [ensureK_invalid s hK]
  exact Host.Outcome.next.inj ((exec_buildK s).symm.trans hu)

/-- Settles O30: DoInvK ends in one of two ways, and EnsureK does what the builders do. -/
theorem invKWritesInverseOrRaisesSingular : Obligations.InvKWritesInverseOrRaisesSingular := by
  refine ⟨fun s hT hK => ?inversion, fun s hK u hu => ?buildK, fun s hT u hu => ?buildT⟩
  case inversion =>
    have hexec : exec .invK s = .next (stageState (doInvK s)) := by rw [exec_invK, ensureK_valid s hT hK]
    cases h : gaussJordan (readMatrix .KS s) with
    | ok x =>
      exact ⟨writeRows s.mem.KIS x, by rw [hexec, doInvK_ok s x h]; rfl,
        fun r hr => readRow_writeRows .KIS _ x r hr⟩
    | fail c => exact ⟨loseRows s.mem.KIS, by rw [hexec, doInvK_fail s c h]; rfl⟩
  case buildK =>
    obtain rfl := ensureK_of_buildK s u hK hu
    exact exec_invK_congr _ _ (ensureK_ensureK s).symm
  case buildT =>
    obtain rfl := ensureT_of_buildT s u hT hu
    exact exec_invK_congr _ _ (ensureK_ensureT s).symm

/-! ## The elimination of `KMAT` succeeds (41_matrix_build.md R113) -/

theorem gaussJordan_kMat : ∃ x, gaussJordan kMat = .ok x := by
  cases h : gaussJordan kMat with
  | ok x => exact ⟨x, rfl⟩
  | fail c =>
    obtain ⟨v, hv, hzero⟩ := gaussJordan_fail_kernel kMat c (length_krylovMatrix _) h
    exact absurd (matVec_kMat_injective (hzero.trans (linear_zero (matVec_xor kMat)).symm)) hv

theorem matVec_kMat_first : matVec kMat (basisRow 0) = basisRow 0 := by
  rw [matVec_basisRow kMat 0 (length_krylovMatrix _) (by decide), kMat, columnOf_krylovMatrix tMat 0 (by decide)]
  rfl

section
variable {s : State}

/-- From every state that meets the invariant DoInvK does not raise. -/
theorem MatrixInv.doInvK_done (h : MatrixInv s) (hK : s.K_VALID = true) :
    ∃ u, Machine.doInvK s = .done u ∧ MatrixInv u ∧ u.KI_VALID = true := by
  obtain ⟨x, hx⟩ := gaussJordan_kMat
  have hx : gaussJordan (readMatrix .KS s) = .ok x := by rw [h.ks hK, hx]
  exact ⟨_, doInvK_ok s x hx, h.inverted hK x _ hx rfl, rfl⟩

theorem MatrixInv.ensureKI_done (h : MatrixInv s) :
    ∃ u, Machine.ensureKI s = .done u ∧ MatrixInv u ∧ u.KI_VALID = true := by
  rcases ensureKI_cases s with ⟨hKI, e⟩ | ⟨_, e⟩ <;> rw [e]
  · exact ⟨_, rfl, h.ensureK, hKI⟩
  · exact h.ensureK.doInvK_done (ensureK_K_VALID s)

/-- Where the inverse is valid the two stores hold inverse matrices. -/
theorem MatrixInv.inverse_stores (h : MatrixInv s) (hKI : s.KI_VALID = true) :
    IsInverse (readMatrix .KS s) (readMatrix .KIS s) := by
  rw [h.ks (h.chain.inverse hKI)]
  exact h.kis hKI

end

theorem IsInverse.matVec_left {A B : Matrix} (h : IsInverse A B) (hA : A.length = 256) (hB : B.length = 256)
    (v : Row) : matVec B (matVec A v) = v := by
  rw [← matVec_matMul B A v hB hA, h.left, matVec_identity]

theorem IsInverse.matVec_right {A B : Matrix} (h : IsInverse A B) (hA : A.length = 256) (hB : B.length = 256)
    (v : Row) : matVec A (matVec B v) = v := by
  rw [← matVec_matMul A B v hA hB, h.right, matVec_identity]

/-! ## The products with `KMAT` and its inverse -/

theorem ensureK_V (s : State) : (ensureK s).V = s.V :=
  congrArg DataRegs.V (dataOf_of_onData ensureK ensureK_onData s)

theorem ensureKI_V (s : State) : (stageState (ensureKI s)).V = s.V :=
  congrArg DataRegs.V (dataOf_of_onData (fun s => stageState (ensureKI s))
    (fun F s => by rw [ensureKI_onData, stageState_onData]) s)

/-- MVMUL.K from every state that meets the invariant. -/
theorem exec_mvmulK_of_inv (s : State) (h : MatrixInv s) :
    ∃ a, exec .mvmulK s = .next a ∧ MatrixInv a ∧ a.V = matVec kMat s.V := by
  refine ⟨_, exec_mvmulK s, h.ensureK.multiplyV .KS, ?_⟩
  rw [multiplyV_V, h.ensureK.ks (ensureK_K_VALID s), ensureK_V]

/-- MVMUL.KI from every state that meets the invariant: the inversion does not raise. -/
theorem exec_mvmulKI_of_inv (s : State) (h : MatrixInv s) :
    ∃ b KI, exec .mvmulKI s = .next b ∧ MatrixInv b ∧ KI.length = 256 ∧ IsInverse kMat KI ∧ b.V = matVec KI s.V := by
  obtain ⟨u, hu, hinv, hKI⟩ := h.ensureKI_done
  have hV : u.V = s.V := by rw [← ensureKI_V s, hu]; rfl
  refine ⟨multiplyV .KIS u, readMatrix .KIS u, ?_, hinv.multiplyV .KIS, length_readMatrix _ _, hinv.kis hKI, ?_⟩
  · rw [exec_mvmulKI, hu]; rfl
  · rw [multiplyV_V, hV]

/-- Settles O33: the elimination of `KMAT` succeeds, so its result is in store `KIS` and undoes `KMAT`. -/
theorem invKLeavesInverseStores : Obligations.InvKLeavesInverseStores := by
  intro s hs
  have h := (inv_iff s).mp hs.inv
  have hlen : kMat.length = 256 := length_krylovMatrix _
  refine ⟨?stores, ?afterK, ?afterKI⟩
  case stores =>
    obtain ⟨t, ht, hinv, hKI⟩ := h.ensureK.doInvK_done (ensureK_K_VALID s)
    have hstores := hinv.inverse_stores hKI
    have hfirst := (hinv.kis hKI).matVec_left hlen (length_readMatrix _ _) (basisRow 0)
    rw [matVec_kMat_first] at hfirst
    refine ⟨t, by rw [exec_invK, ht]; rfl, ?_, hKI, hstores.right, hstores.left, hfirst⟩
    rw [doInvK_done_ERR_CODE _ t ht, ensureK_ERR_CODE, hs.noFault]
  case afterK =>
    obtain ⟨a, ha, hinv, haV⟩ := exec_mvmulK_of_inv s h
    obtain ⟨b, KI, hb, _, hKI, hinverse, hbV⟩ := exec_mvmulKI_of_inv a hinv
    exact ⟨a, b, ha, hb, by rw [hbV, haV, hinverse.matVec_left hlen hKI]⟩
  case afterKI =>
    obtain ⟨a, KI, ha, hinv, hKI, hinverse, haV⟩ := exec_mvmulKI_of_inv s h
    obtain ⟨b, hb, _, hbV⟩ := exec_mvmulK_of_inv a hinv
    exact ⟨a, b, ha, hb, by rw [hbV, haV, hinverse.matVec_right hlen hKI]⟩

end Sys2Proof.Machine
end

/-! # Square and multiply computes the power (43_jump.md R125, R126) -/
section
namespace Sys2Proof.Machine

/-- What the loop of `PowVec` holds before iteration `k`: the product with the power that bits `k - 1 : 0` of `n` name,
and, until the last iteration, the matrix of the power `2^k`. -/
structure PowInv (M : Matrix) (n : Row) (len k : Nat) (x : Row × Matrix) : Prop where
  acc : x.1 = (matVec M)^[n.toNat % 2 ^ k] (basisRow 0)
  length : x.2.length = 256
  running : k < len → matVec x.2 = (matVec M)^[2 ^ k]

theorem matVec_square (M : Matrix) (hM : M.length = 256) : matVec (matMul M M) = (matVec M)^[2] :=
  funext (fun v => matVec_matMul M M v hM hM)

theorem PowInv.step {M : Matrix} {n : Row} {len k : Nat} {x : Row × Matrix} (h : PowInv M n len k x) (hk : k < len) :
    PowInv M n len (k + 1) (powStep n len x k) := by
  have hmod : n.toNat % 2 ^ (k + 1) = 2 ^ k * (n.getLsbD k).toNat + n.toNat % 2 ^ k := by
    rw [Nat.mod_pow_succ, BitVec.getLsbD, Nat.toNat_testBit, Nat.add_comm]
  constructor
  · rw [hmod, Function.iterate_add_apply, ← h.acc, powStep]
    cases n.getLsbD k with
    | true => simp [h.running hk]
    | false => rfl
  · rw [powStep]
    split_ifs <;> simp [h.length]
  · intro hlast
    have hsquared : (powStep n len x k).2 = matMul x.2 x.2 := if_pos (by omega)
    rw [hsquared, matVec_square x.2 h.length, h.running hk, ← Function.iterate_mul, Nat.pow_succ]

/-- `PowVec(n)` with `T = M` is `M^n e0`, for every matrix and every count. -/
theorem powVec_eq_iterate (M : Matrix) (n : Row) (hM : M.length = 256) :
    powVec M n = (matVec M)^[n.toNat] (basisRow 0) := by
  have hloop : ∀ k ≤ bitLength n,
      PowInv M n (bitLength n) k ((List.range k).foldl (powStep n (bitLength n)) (basisRow 0, M)) := by
    intro k hk
    induction k with
    | zero => exact ⟨by rw [Nat.pow_zero, Nat.mod_one]; rfl, hM, fun _ => rfl⟩
    | succ k ih =>
      rw [List.range_succ, List.foldl_append]
      exact (ih (by omega)).step (by omega)
  have hlt : n.toNat < 2 ^ bitLength n := by
    rw [bitLength, Nat.add_comm]
    exact Nat.lt_log2_self
  by_cases hn : n = 0
  · rw [powVec, if_pos hn, hn]; rfl
  · rw [powVec, if_neg hn, (hloop _ le_rfl).acc, Nat.mod_eq_of_lt hlt]

end Sys2Proof.Machine
end

/-! # The reference constants (43_jump.md R134): `T^(2^128) e0` and `T^(2^192) e0` in the Krylov basis

A row `p` stands for the polynomial in `T` with the bits of `p` as its coefficients, and `KMAT` takes it to the value of
that polynomial at `e0`. The powers of `T` have one polynomial modulo the characteristic polynomial: from that of
`T^m`, squaring gives that of `T^(2 m)`. The squarings are done on numbers, which the kernel multiplies fast. -/
section
namespace Sys2Proof.Machine

/-! ## Krylov vectors from another start -/

theorem krylov_iterate (M : Matrix) (n m : Nat) (v : Row) :
    krylov M n ((matVec M)^[m] v) = (krylov M n v).map (matVec M)^[m] := by
  simp only [krylov_eq_map, List.map_map, Function.comp_def, ← Function.iterate_add_apply, Nat.add_comm]

theorem krylov_tMat (n : Nat) (v : Row) : krylov tMat n v = List.iterate encodedStep v n := by
  induction n generalizing v with
  | zero => rfl
  | succ n ih => rw [krylov, ih, matVec_tMat]; rfl

/-- Two linear maps that agree at the basis vectors are equal. -/
theorem linear_ext {F G : Row → Row} (hF : ∀ a b, F (a ^^^ b) = F a ^^^ F b) (hG : ∀ a b, G (a ^^^ b) = G a ^^^ G b)
    (h : ∀ c < 256, F (basisRow c) = G (basisRow c)) (v : Row) : F v = G v := by
  have hmap : identity.map F = identity.map G := by
    simp only [identity, List.map_map]
    exact List.map_congr_left (fun c hc => h c (List.mem_range.mp hc))
  rw [linear_eq_matVec hF, linear_eq_matVec hG, hmap]

/-! ## Multiplication by `x` -/

/-- `T^256 e0` in the Krylov basis: the characteristic polynomial of `TMAT` without its leading term. -/
def characteristicRow : Row := 0x3c03c3f3ecb1904b4edcf26259f850280002bcefd1a5e9d116f2bb0f0f001#256

theorem characteristicRow_combines :
    combineRows characteristicRow 0 (List.iterate encodedStep (basisRow 0) 256) = encodedStep^[256] (basisRow 0) := by
  decide +kernel

/-- `x * p` modulo the characteristic polynomial. -/
def mulX (p : Row) : Row := p <<< 1 ^^^ (if p.getLsbD 255 then characteristicRow else 0)

theorem mulX_xor (a b : Row) : mulX (a ^^^ b) = mulX a ^^^ mulX b := by
  have hcarry : ∀ x y : Bool, (if (x ^^ y) = true then characteristicRow else 0)
      = (if x = true then characteristicRow else 0) ^^^ (if y = true then characteristicRow else 0) := by decide
  rw [mulX, BitVec.shiftLeft_xor_distrib, BitVec.getLsbD_xor, hcarry, mulX, mulX]
  ac_rfl

theorem mulX_basisRow (c : Nat) (hc : c < 255) : mulX (basisRow c) = basisRow (c + 1) := by
  have htop : (basisRow c).getLsbD 255 = false := by
    rw [getLsbD_basisRow, decide_eq_false (by omega : ¬ 255 = c), Bool.and_false]
  rw [mulX, htop, basisRow, ← BitVec.shiftLeft_add]
  simp [basisRow]

theorem mulX_basisRow_last : mulX (basisRow 255) = characteristicRow := by decide

theorem matVec_kMat_basisRow (c : Nat) (hc : c < 256) : matVec kMat (basisRow c) = (matVec tMat)^[c] (basisRow 0) := by
  rw [matVec_basisRow kMat c (length_krylovMatrix _) hc, kMat, columnOf_krylovMatrix tMat c hc]

/-- Multiplication by `x` is `T` at `e0`. -/
theorem matVec_kMat_mulX (p : Row) : matVec kMat (mulX p) = matVec tMat (matVec kMat p) := by
  refine linear_ext (F := fun p => matVec kMat (mulX p)) (G := fun p => matVec tMat (matVec kMat p))
    (fun a b => by simp only [mulX_xor, matVec_xor]) (fun a b => by simp only [matVec_xor]) (fun c hc => ?_) p
  simp only [matVec_kMat_basisRow c hc, ← Function.iterate_succ_apply']
  by_cases hlast : c = 255
  · rw [hlast, mulX_basisRow_last, matVec_kMat, krylov_tMat, characteristicRow_combines, funext matVec_tMat]
  · rw [mulX_basisRow c (by omega), matVec_kMat_basisRow (c + 1) (by omega)]

/-! ## The product on numbers -/

/-- `x * p` on numbers: the bit that leaves the row takes the characteristic polynomial with it. -/
def mulXNat (p : Nat) : Nat := p <<< 1 ^^^ p >>> 255 % 2 * (2 ^ 256 + characteristicRow.toNat)

/-- `p * q` modulo the characteristic polynomial, for the low `n` coefficients of `p`, by Horner's rule. -/
def mulNat (q : Nat) : Nat → Nat → Nat
  | 0, _ => 0
  | n + 1, p => mulXNat (mulNat q n (p / 2)) ^^^ p % 2 * q

/-- `p * p` modulo the characteristic polynomial. -/
def squareNat (p : Nat) : Nat := mulNat p 256 p

/-- A number times one of its bits. -/
theorem testBit_mul (p q i : Nat) : p >>> i % 2 * q = if p.testBit i then q else 0 := by
  rw [Nat.shiftRight_eq_div_pow, ← Nat.toNat_testBit]
  cases p.testBit i <;> simp

theorem ofNat_characteristic : BitVec.ofNat 256 (2 ^ 256 + characteristicRow.toNat) = characteristicRow := by decide

theorem ofNat_mulXNat (p : Nat) : BitVec.ofNat 256 (mulXNat p) = mulX (BitVec.ofNat 256 p) := by
  have hshift : BitVec.ofNat 256 (p <<< 1) = BitVec.ofNat 256 p <<< 1 := by
    apply BitVec.eq_of_toNat_eq
    simp [Nat.shiftLeft_eq]
  have htop : (BitVec.ofNat 256 p).getLsbD 255 = p.testBit 255 := by
    rw [BitVec.getLsbD_ofNat, decide_eq_true (by decide), Bool.true_and]
  rw [mulXNat, BitVec.ofNat_xor, hshift, testBit_mul, mulX, htop]
  cases p.testBit 255
  · rfl
  · exact congrArg (_ ^^^ ·) ofNat_characteristic

/-- The value of the polynomial at `e0`. -/
def valueAt (p : Nat) : Row := matVec kMat (BitVec.ofNat 256 p)

theorem valueAt_xor (a b : Nat) : valueAt (a ^^^ b) = valueAt a ^^^ valueAt b := by
  rw [valueAt, BitVec.ofNat_xor, matVec_xor]; rfl

theorem valueAt_zero : valueAt 0 = 0#256 := linear_zero (matVec_xor kMat)

theorem valueAt_mulXNat (p : Nat) : valueAt (mulXNat p) = matVec tMat (valueAt p) := by
  rw [valueAt, ofNat_mulXNat, matVec_kMat_mulX]; rfl

theorem valueAt_eq_combineRows (p : Nat) : valueAt p = combineRows (BitVec.ofNat 256 p) 0 (krylov tMat 256 (basisRow 0)) :=
  matVec_kMat _

/-- The product of polynomials is the one polynomial in `T`, applied to the value of the other. -/
theorem valueAt_mulNat (p q n k : Nat) (hk : k + n = 256) :
    valueAt (mulNat q n (p / 2 ^ k)) = combineRows (BitVec.ofNat 256 p) k (krylov tMat n (valueAt q)) := by
  induction n generalizing k with
  | zero => exact valueAt_zero
  | succ n ih =>
    have hbit : valueAt (p / 2 ^ k % 2 * q) = if (BitVec.ofNat 256 p).getLsbD k then valueAt q else 0 := by
      rw [← Nat.shiftRight_eq_div_pow, testBit_mul, BitVec.getLsbD_ofNat, decide_eq_true (by omega), Bool.true_and]
      cases p.testBit k
      · exact valueAt_zero
      · rfl
    have hrest : krylov tMat n (matVec tMat (valueAt q)) = (krylov tMat n (valueAt q)).map (matVec tMat) :=
      krylov_iterate tMat n 1 _
    rw [mulNat, valueAt_xor, valueAt_mulXNat, Nat.div_div_eq_div_mul, ← Nat.pow_succ, ih (k + 1) (by omega), hbit,
      krylov, combineRows_cons, hrest, ← linear_combineRows (matVec_xor tMat), BitVec.xor_comm]

/-! ## Squaring doubles the power -/

theorem valueAt_squareNat (p m : Nat) (hp : valueAt p = (matVec tMat)^[m] (basisRow 0)) :
    valueAt (squareNat p) = (matVec tMat)^[2 * m] (basisRow 0) := by
  have hmul := valueAt_mulNat p p 256 0 rfl
  rw [Nat.pow_zero, Nat.div_one] at hmul
  calc valueAt (squareNat p)
      = combineRows (BitVec.ofNat 256 p) 0 ((krylov tMat 256 (basisRow 0)).map (matVec tMat)^[m]) := by
        rw [squareNat, hmul, hp, krylov_iterate]
    _ = (matVec tMat)^[m] (valueAt p) := by
        rw [← linear_combineRows (linear_iterate (matVec_xor tMat) m), valueAt_eq_combineRows]
    _ = (matVec tMat)^[2 * m] (basisRow 0) := by rw [hp, ← Function.iterate_add_apply, Nat.two_mul]

theorem valueAt_iterate_squareNat (k p m : Nat) (hp : valueAt p = (matVec tMat)^[m] (basisRow 0)) :
    valueAt (squareNat^[k] p) = (matVec tMat)^[2 ^ k * m] (basisRow 0) := by
  induction k with
  | zero => rw [Nat.pow_zero, Nat.one_mul]; exact hp
  | succ k ih => rw [Function.iterate_succ_apply', valueAt_squareNat _ _ ih, Nat.pow_succ', Nat.mul_assoc]

/-! ## The two constants -/

/-- A jump constant as the number of its polynomial. -/
abbrev numberOf (q : Words4) : Nat := (encodeState q).toNat

theorem squareNat_128 : squareNat^[128] 2 = numberOf Config.ref128 := by decide +kernel

theorem squareNat_192 : squareNat^[64] (numberOf Config.ref128) = numberOf Config.ref192 := by decide +kernel

theorem valueAt_numberOf (q : Words4) : valueAt (numberOf q) = matVec kMat (encodeState q) := by
  rw [valueAt, numberOf, BitVec.ofNat_toNat, BitVec.setWidth_eq]

theorem matVec_kMat_ref128 : matVec kMat (encodeState Config.ref128) = (matVec tMat)^[2 ^ 128] (basisRow 0) := by
  have hx : valueAt 2 = (matVec tMat)^[1] (basisRow 0) := matVec_kMat_basisRow 1 (by decide)
  rw [← valueAt_numberOf, ← squareNat_128, valueAt_iterate_squareNat 128 2 1 hx, Nat.mul_one]

theorem matVec_kMat_ref192 : matVec kMat (encodeState Config.ref192) = (matVec tMat)^[2 ^ 192] (basisRow 0) := by
  have h128 := (valueAt_numberOf Config.ref128).trans matVec_kMat_ref128
  rw [← valueAt_numberOf, ← squareNat_192, valueAt_iterate_squareNat 64 _ _ h128, ← Nat.pow_add]

/-- The jump constant for `n` is the polynomial whose value at `e0` is `T^n e0`, for every inverse of `KMAT`. -/
theorem jumpConstant_eq_of_matVec_kMat (KI : Matrix) (n : Row) (q : Words4) (hKI : KI.length = 256)
    (hinverse : IsInverse kMat KI) (hq : matVec kMat (encodeState q) = (matVec tMat)^[n.toNat] (basisRow 0)) :
    jumpConstant tMat KI n = q := by
  rw [jumpConstant, powVec_eq_iterate tMat n length_tMat, ← hq,
    hinverse.matVec_left (length_krylovMatrix _) hKI, decodeRow_encodeState]

end Sys2Proof.Machine
end

/-! # No event records a fatal fault (42_inversion.md R118, 43_jump.md R136) -/
section
namespace Sys2Proof.Machine

/-! ## From a state that meets the invariant no stage raises -/

section
variable {s : State}

/-- Where the inverse is valid, the constant for `n` from the stores is the polynomial whose value at `e0` is
`T^n e0`. -/
theorem MatrixInv.storedJump_eq (h : MatrixInv s) (hKI : s.KI_VALID = true) (n : Row) (q : Words4)
    (hq : matVec kMat (encodeState q) = (matVec tMat)^[n.toNat] (basisRow 0)) : storedJump s n = q := by
  rw [storedJump_of_ts s n (h.ts (h.chain.krylov (h.chain.inverse hKI)))]
  exact jumpConstant_eq_of_matVec_kMat _ n q (length_readMatrix _ _) (h.kis hKI) hq

theorem MatrixInv.doVerify_done (h : MatrixInv s) (hKI : s.KI_VALID = true) :
    Machine.doVerify s = .done { s with VERIFIED := true } :=
  doVerify_agrees s (h.storedJump_eq hKI _ _ matVec_kMat_ref128) (h.storedJump_eq hKI _ _ matVec_kMat_ref192)

theorem MatrixInv.verify_done (h : MatrixInv s) : ∃ u, andThen (Machine.ensureKI s) Machine.doVerify = .done u ∧
    u.ERR_CODE = s.ERR_CODE := by
  obtain ⟨u, hu, hinv, hKI⟩ := h.ensureKI_done
  refine ⟨{ u with VERIFIED := true }, ?_, ensureKI_done_ERR_CODE s u hu⟩
  rw [hu, andThen_done, hinv.doVerify_done hKI]

theorem MatrixInv.ensureVerified_done (h : MatrixInv s) : ∃ u, Machine.ensureVerified s = .done u := by
  obtain ⟨u, hu, hinv, hKI⟩ := h.ensureKI_done
  rw [Machine.ensureVerified_done s u hu]
  split
  · exact ⟨u, rfl⟩
  · exact ⟨_, hinv.doVerify_done hKI⟩

/-- JUMPGEN refuses a negative count, and otherwise is done. -/
theorem MatrixInv.jumpGenStage_fault (h : MatrixInv s) :
    (stageState (Machine.jumpGenStage s)).ERR_CODE = .invalidInput ∨
    (stageState (Machine.jumpGenStage s)).ERR_CODE = s.ERR_CODE := by
  cases hN : s.NEG with
  | true => rw [jumpGenStage_negative s hN]; exact .inl rfl
  | false =>
    obtain ⟨u, hu⟩ := (h.clearedJ s.J).ensureVerified_done
    rw [jumpGenStage_nonnegative s hN, hu]
    exact .inr (ensureVerified_done_ERR_CODE { s with J_VALID := false } u hu)

end

/-! ## Commands, events and steps -/

theorem noFatal_of_ERR_CODE {s t : State} (h : NoFatal s) (he : t.ERR_CODE = s.ERR_CODE) : NoFatal t := by
  rw [NoFatal, he]; exact h

theorem noFatal_clearFault (s : State) (h : NoFatal s) : NoFatal (clearFault s) := by
  unfold clearFault
  split
  · rfl
  · exact h

theorem exec_keeps_noFatal (i : Instr) (s t : State) (h : MatrixInv s) (hs : NoFatal s) (ht : exec i s = .next t) :
    NoFatal t := by
  cases i <;> injection ht with ht <;> subst ht
  case nop | step | enc | dec | jApply | buildT => exact hs
  case clrErr => exact noFatal_clearFault s hs
  case buildK | mvmulT => exact noFatal_of_ERR_CODE hs (ensureT_ERR_CODE s)
  case mvmulK => exact noFatal_of_ERR_CODE hs (ensureK_ERR_CODE s)
  case invK =>
    obtain ⟨u, hu, _⟩ := h.ensureK.doInvK_done (ensureK_K_VALID s)
    rw [hu]
    exact noFatal_of_ERR_CODE hs ((doInvK_done_ERR_CODE _ u hu).trans (ensureK_ERR_CODE s))
  case mvmulKI =>
    obtain ⟨u, hu, _⟩ := h.ensureKI_done
    rw [hu]
    exact noFatal_of_ERR_CODE hs (ensureKI_done_ERR_CODE s u hu)
  case verify =>
    obtain ⟨u, hu, he⟩ := h.verify_done
    rw [hu]
    exact noFatal_of_ERR_CODE hs he
  case init =>
    obtain ⟨u, hu⟩ := h.ensureVerified_done
    rw [hu]
    exact noFatal_of_ERR_CODE hs (ensureVerified_done_ERR_CODE s u hu)
  case jumpGen =>
    rcases h.jumpGenStage_fault with he | he
    · rw [NoFatal, he]; rfl
    · exact noFatal_of_ERR_CODE hs he

theorem effect_keeps_noFatal (s t : State) (h : MatrixInv s) (hs : NoFatal s) (ht : Effect s t) : NoFatal t := by
  cases ht with
  | command i t hi => exact exec_keeps_noFatal i s t h hs hi
  | cleared => exact noFatal_clearFault s hs
  | reset => rfl
  | illegal word _ => rfl
  | _ => exact hs

/-- Settles O58: no stage raises from a state that meets the invariant, so the invariant and the absence of a fatal
fault are kept together. -/
theorem noFatalFaultIsEverRecorded : Obligations.NoFatalFaultIsEverRecorded := by
  intro s t hinv hs h
  have hkept := step_keeps (fun u => MatrixInv u ∧ NoFatal u)
    (fun u v hu he => ⟨effect_keeps_matrixInv u v hu.1 he, effect_keeps_noFatal u v hu.1 hu.2 he⟩)
    (fun _ _ hu => ⟨hu.1.registers, hu.2⟩) s t ⟨(inv_iff s).mp hinv, hs⟩ h
  exact hkept.2

end Sys2Proof.Machine
end

/-! # VERIFY and INIT: which stages run, and that they succeed (43_jump.md R135 to R137, 41_matrix_build.md R108) -/
section
namespace Sys2Proof.Machine

/-! ## The commands by their stages -/

theorem exec_verify (s : State) : exec .verify s = .next (stageState (andThen (ensureKI s) doVerify)) := rfl

theorem exec_init (s : State) : exec .init s = .next (stageState (ensureVerified s)) := rfl

theorem exec_verify_congr (s t : State) (h : ensureK s = ensureK t) : exec .verify s = exec .verify t := by
  rw [exec_verify, exec_verify, ensureKI_congr s t h]

theorem exec_init_congr (s t : State) (h : ensureK s = ensureK t) : exec .init s = exec .init t := by
  rw [exec_init, exec_init, ensureVerified, ensureVerified, ensureKI_congr s t h]

/-- Where the inverse is not valid EnsureKI does what INVK does: it is done with the three stores valid and nothing
verified, or it raised and leaves `KI_VALID` cleared. -/
theorem ensureKI_of_invK (s u : State) (hKI : s.KI_VALID = false) (h : exec .invK s = .next u) :
    (ensureKI s = .done u ∧ u.T_VALID = true ∧ u.K_VALID = true ∧ u.KI_VALID = true ∧ u.VERIFIED = false) ∨
    (ensureKI s = .raised u ∧ u.KI_VALID = false) := by
  obtain ⟨t, hflags, hend⟩ := doInvK_split (ensureK s)
  obtain rfl : t = u := (stageState_of_split hend).symm.trans (Host.Outcome.next.inj ((exec_invK s).symm.trans h))
  rw [ensureKI_invalid s hKI]
  rcases hend with ⟨hdone, hvalid⟩ | hraised
  · have hT : t.T_VALID = true := (congrArg FlagValues.T_VALID hflags).trans (ensureK_T_VALID s)
    have hK : t.K_VALID = true := (congrArg FlagValues.K_VALID hflags).trans (ensureK_K_VALID s)
    exact .inl ⟨hdone, hT, hK, hvalid, congrArg FlagValues.VERIFIED hflags⟩
  · exact .inr hraised

section
variable {s : State} (hT : s.T_VALID = true) (hK : s.K_VALID = true) (hKI : s.KI_VALID = true)
include hT hK hKI

/-- With the three stores valid VERIFY is DoVerify alone. -/
theorem exec_verify_valid : exec .verify s = .next (stageState (doVerify s)) := by
  rw [exec_verify, ensureKI_valid s hT hK hKI, andThen_done]

theorem exec_init_verified (hV : s.VERIFIED = true) : exec .init s = .next s := by
  rw [exec_init, ensureVerified_valid s hT hK hKI hV, stageState_done]

theorem exec_init_unverified (hV : s.VERIFIED = false) : exec .init s = exec .verify s := by
  rw [exec_verify_valid hT hK hKI, exec_init, ensureVerified_done s s (ensureKI_valid s hT hK hKI), hV,
    if_neg Bool.false_ne_true]

end

/-- VERIFY and INIT alike: where the inverse is not valid, INVK runs first, and then VERIFY unless it raised. -/
theorem exec_verify_init_of_invK (s u : State) (hKI : s.KI_VALID = false) (h : exec .invK s = .next u) :
    exec .verify s = (if u.KI_VALID then exec .verify u else .next u) ∧
    exec .init s = (if u.KI_VALID then exec .verify u else .next u) := by
  rcases ensureKI_of_invK s u hKI h with ⟨hdone, hT, hK, hKI, hV⟩ | ⟨hraised, hKI⟩
  · rw [if_pos hKI, exec_verify_valid hT hK hKI, exec_verify, exec_init, hdone, ensureVerified_done s u hdone, hV,
      if_neg Bool.false_ne_true]
    exact ⟨rfl, rfl⟩
  · rw [hKI, if_neg Bool.false_ne_true, exec_verify, exec_init, hraised, ensureVerified_raised s u hraised]
    exact ⟨rfl, rfl⟩

theorem ofNat_two_pow_eq_basisRow (k : Nat) : BitVec.ofNat 256 (2 ^ k) = basisRow k := by
  apply BitVec.eq_of_toNat_eq
  simp [basisRow, Nat.shiftLeft_eq]

/-- Settles O41: DoVerify ends in one of three ways, and the missing stores are built as their own commands build
them. -/
theorem verifyChecksBothConstantsInOrder : Obligations.VerifyChecksBothConstantsInOrder := by
  refine fun s => ⟨fun hT hK hKI => ?valid, fun hKI u hu => (exec_verify_init_of_invK s u hKI hu).1,
    fun hK u hu => ?buildK, fun hT u hu => ?buildT⟩
  case valid =>
    have hjump : ∀ n, jumpConstant (readMatrix .TS s) (readMatrix .KIS s) n = storedJump s n := fun _ => rfl
    rw [exec_verify_valid hT hK hKI, ofNat_two_pow_eq_basisRow, ofNat_two_pow_eq_basisRow, hjump, hjump]
    rcases doVerify_cases s with ⟨h1, e⟩ | ⟨h1, h2, e⟩ | ⟨h1, h2, e⟩ <;> rw [e]
    · rw [if_pos h1]; rfl
    · rw [if_neg (not_not.mpr h1), if_pos h2]; rfl
    · rw [if_neg (not_not.mpr h1), if_neg (not_not.mpr h2)]; rfl
  case buildK =>
    obtain rfl := ensureK_of_buildK s u hK hu
    exact exec_verify_congr _ _ (ensureK_ensureK s).symm
  case buildT =>
    obtain rfl := ensureT_of_buildT s u hT hu
    exact exec_verify_congr _ _ (ensureK_ensureT s).symm

/-- Settles O43: INIT is EnsureVerified, which is DoVerify after EnsureKI unless the core is verified. -/
theorem initRunsOnlyMissingStages : Obligations.InitRunsOnlyMissingStages := by
  refine fun s => ⟨exec_init_verified, exec_init_unverified, fun hKI u hu => (exec_verify_init_of_invK s u hKI hu).2,
    fun hK u hu => ?buildK, fun hT u hu => ?buildT⟩
  case buildK =>
    obtain rfl := ensureK_of_buildK s u hK hu
    exact exec_init_congr _ _ (ensureK_ensureK s).symm
  case buildT =>
    obtain rfl := ensureT_of_buildT s u hT hu
    exact exec_init_congr _ _ (ensureK_ensureT s).symm

/-! ## From a state that meets the invariant both succeed -/

theorem MatrixInv.valid_of_verified {s : State} (h : MatrixInv s) (hV : s.VERIFIED = true) :
    s.T_VALID = true ∧ s.K_VALID = true ∧ s.KI_VALID = true := by
  have hKI := h.chain.verified hV
  have hK := h.chain.inverse hKI
  exact ⟨h.chain.krylov hK, hK, hKI⟩

/-- A command that touches no data register and leaves `VERIFIED` set leaves all four flags, and `J` as it was. -/
theorem MatrixInv.flags_of_verified_command {i : Instr} {s t : State} (h : MatrixInv s) (ht : exec i s = .next t)
    (hi : i ∈ [Instr.nop, .buildT, .buildK, .invK, .verify, .init, .clrErr]) (hV : t.VERIFIED = true) :
    t.T_VALID = true ∧ t.K_VALID = true ∧ t.KI_VALID = true ∧ t.VERIFIED = true ∧ t.J = s.J := by
  obtain ⟨hT, hK, hKI⟩ := (exec_keeps_matrixInv i s t h ht).valid_of_verified hV
  exact ⟨hT, hK, hKI, hV, congrArg DataRegs.J (dataOf_exec i s t hi ht)⟩

/-- Settles O44: no stage raises, the constants of the true matrices being the reference constants. -/
theorem initAndVerifySucceed : Obligations.InitAndVerifySucceed := by
  intro s hs
  have h := (inv_iff s).mp hs.inv
  constructor
  · obtain ⟨t, ht⟩ := h.ensureVerified_done
    have hexec : exec .init s = .next t := by rw [exec_init, ht, stageState_done]
    obtain ⟨hT, hK, hKI, hV, hJ⟩ :=
      h.flags_of_verified_command hexec (by decide) (ensureVerified_done_VERIFIED s t ht)
    exact ⟨t, hexec, (ensureVerified_done_ERR_CODE s t ht).trans hs.noFault, hT, hK, hKI, hV, hJ,
      exec_init_verified hT hK hKI hV⟩
  · obtain ⟨u, hu, hinv, hKI⟩ := h.ensureKI_done
    have hexec : exec .verify s = .next { u with VERIFIED := true } := by
      rw [exec_verify, hu, andThen_done, hinv.doVerify_done hKI, stageState_done]
    exact ⟨_, hexec, (ensureKI_done_ERR_CODE s u hu).trans hs.noFault,
      h.flags_of_verified_command hexec (by decide) rfl⟩

end Sys2Proof.Machine
end

/-! # JUMPGEN: the sign first, then what INIT runs, then the constant (43_jump.md R131, R132) -/
section
namespace Sys2Proof.Machine

/-! ## No stage reads `J_VALID` -/

/-- The first thing JUMPGEN does, 43_jump.md R131. -/
def clearJ (s : State) : State := { s with J_VALID := false }

/-- A stage with `J_VALID` cleared in the state it leaves. -/
def Stage.clearJ : Stage → Stage
  | .done s => .done (Machine.clearJ s)
  | .raised s => .raised (Machine.clearJ s)

theorem ensureT_clearJ (s : State) : ensureT (clearJ s) = clearJ (ensureT s) :=
  (apply_ite clearJ (s.T_VALID = true) s (doBuildT s)).symm

theorem ensureK_clearJ (s : State) : ensureK (clearJ s) = clearJ (ensureK s) := by
  rw [ensureK, ensureT_clearJ]
  exact (apply_ite clearJ ((ensureT s).K_VALID = true) (ensureT s) (doBuildK (ensureT s))).symm

/-- DoInvK clears `J_VALID` itself. -/
theorem doInvK_clearJ (s : State) : doInvK (clearJ s) = (doInvK s).clearJ := by
  rcases doInvK_cases s with ⟨c, h, e⟩ | ⟨x, h, e⟩ <;> rw [e]
  · exact doInvK_fail (clearJ s) c h
  · exact doInvK_ok (clearJ s) x h

theorem ensureKI_clearJ (s : State) : ensureKI (clearJ s) = (ensureKI s).clearJ := by
  rw [ensureKI, ensureK_clearJ, doInvK_clearJ]
  exact (apply_ite Stage.clearJ ((ensureK s).KI_VALID = true) (.done (ensureK s)) (doInvK (ensureK s))).symm

theorem doVerify_clearJ (s : State) : doVerify (clearJ s) = (doVerify s).clearJ := by
  rcases doVerify_cases s with ⟨h1, e⟩ | ⟨h1, h2, e⟩ | ⟨h1, h2, e⟩ <;> rw [e]
  · exact doVerify_first_differs (clearJ s) h1
  · exact doVerify_second_differs (clearJ s) h1 h2
  · exact doVerify_agrees (clearJ s) h1 h2

theorem ensureVerified_clearJ (s : State) : ensureVerified (clearJ s) = (ensureVerified s).clearJ := by
  rw [ensureVerified, ensureVerified, ensureKI_clearJ]
  cases ensureKI s with
  | raised u => rfl
  | done u =>
    rw [Stage.clearJ, andThen_done, andThen_done, doVerify_clearJ]
    exact (apply_ite Stage.clearJ (u.VERIFIED = true) (.done u) (doVerify u)).symm

/-! ## The command -/

theorem exec_jumpGen_negative (s : State) (hN : s.NEG = true) :
    exec .jumpGen s = .next (raise .invalidInput 0 (clearJ s)) := by
  rw [exec, execJumpGen, jumpGenStage_negative s hN]
  rfl

theorem exec_jumpGen_nonnegative (s : State) (hN : s.NEG = false) :
    exec .jumpGen s
      = .next (stageState (andThen (ensureVerified s).clearJ (fun t => .done (emitJump t)))) := by
  rw [exec, execJumpGen, jumpGenStage_nonnegative s hN, ← ensureVerified_clearJ]
  rfl

/-- Where EnsureVerified is done JUMPGEN emits. -/
theorem exec_jumpGen_done (s u : State) (hN : s.NEG = false) (hu : ensureVerified s = .done u) :
    exec .jumpGen s = .next (emitJump u) := by
  rw [exec_jumpGen_nonnegative s hN, hu]
  rfl

theorem exec_jumpGen_raised (s u : State) (hN : s.NEG = false) (hu : ensureVerified s = .raised u) :
    exec .jumpGen s = .next (clearJ u) := by
  rw [exec_jumpGen_nonnegative s hN, hu]
  rfl

theorem exec_jumpGen_valid (s : State) (hN : s.NEG = false) (hT : s.T_VALID = true) (hK : s.K_VALID = true)
    (hKI : s.KI_VALID = true) (hV : s.VERIFIED = true) : exec .jumpGen s = .next (emitJump s) :=
  exec_jumpGen_done s s hN (ensureVerified_valid s hT hK hKI hV)

theorem ensureVerified_done_K_VALID (s u : State) (h : ensureVerified s = .done u) : u.K_VALID = true := by
  have hflags := flagsOf_exec_table .init s u (by rw [exec_init, h, stageState_done])
  exact congrArg FlagValues.K_VALID hflags

/-- Settles O40: no stage reads `J_VALID`, so JUMPGEN runs what INIT runs and emits where that is done. -/
theorem jumpGenRejectsInitialisesAndEmits : Obligations.JumpGenRejectsInitialisesAndEmits := by
  refine fun s => ⟨exec_jumpGen_negative s, exec_jumpGen_valid s, fun hN u hu => ?_⟩
  obtain rfl : stageState (ensureVerified s) = u := Host.Outcome.next.inj ((exec_init s).symm.trans hu)
  have hdata := dataOf_ensureVerified s
  refine ⟨congrArg DataRegs.J hdata, congrArg DataRegs.N hdata, congrArg DataRegs.V hdata,
    congrArg DataRegs.S hdata, ?_⟩
  obtain ⟨u, _, ⟨e, hV⟩ | ⟨e, hV⟩⟩ := ensureVerified_split s
  · obtain ⟨hT, hKI⟩ := ensureVerified_done_valid s u e
    have hN' : u.NEG = false := by
      rw [e] at hdata
      exact (congrArg DataRegs.NEG hdata).trans hN
    rw [exec_jumpGen_done s u hN e, e, stageState_done, if_pos hV,
      exec_jumpGen_valid u hN' hT (ensureVerified_done_K_VALID s u e) hKI hV]
  · rw [exec_jumpGen_raised s u hN e, e, stageState_raised, if_neg (Bool.eq_false_iff.mp hV)]
    rfl

end Sys2Proof.Machine
end

/-! # Polynomials in `T`, and what JAPPLY computes (43_jump.md R139, R141) -/
section
namespace Sys2Proof.Machine

/-- The polynomial with the bits of `p` as its coefficients, at `T`, applied to `v`. -/
def polynomialAt (p v : Row) : Row := combineRows p 0 (krylov tMat 256 v)

/-! ## Sums over the coefficients -/

theorem combineRows_zero (k : Nat) (B : Matrix) : combineRows 0 k B = 0#256 :=
  linear_zero (F := fun a => combineRows a k B) (fun a b => combineRows_xor a b k B)

theorem combineRows_concat (a : Row) (k : Nat) (B : Matrix) (b : Row) :
    combineRows a k (B ++ [b]) = combineRows a k B ^^^ (if a.getLsbD (k + B.length) then b else 0) := by
  induction B generalizing k with
  | nil => exact BitVec.xor_comm _ _
  | cons x B ih =>
    rw [List.cons_append, combineRows_cons, ih, combineRows_cons, List.length_cons, Nat.add_right_comm, Nat.add_assoc,
      BitVec.xor_assoc]

theorem combineRows_map_xor {α : Type} (a : Row) (k : Nat) (f g : α → Row) (l : List α) :
    combineRows a k (l.map (fun x => f x ^^^ g x)) = combineRows a k (l.map f) ^^^ combineRows a k (l.map g) := by
  induction l generalizing k with
  | nil => exact BitVec.xor_zero.symm
  | cons x l ih =>
    simp only [List.map_cons, combineRows_cons, ih]
    cases a.getLsbD k
    · simp
    · simp only [if_true]
      ac_rfl

/-! ## A polynomial in `T` is linear and commutes with `T` -/

theorem polynomialAt_xor (p v w : Row) : polynomialAt p (v ^^^ w) = polynomialAt p v ^^^ polynomialAt p w := by
  simp only [polynomialAt, krylov_eq_map, linear_iterate (matVec_xor tMat), combineRows_map_xor]

theorem polynomialAt_iterate (p v : Row) (m : Nat) :
    polynomialAt p ((matVec tMat)^[m] v) = (matVec tMat)^[m] (polynomialAt p v) := by
  rw [polynomialAt, krylov_iterate, ← linear_combineRows (linear_iterate (matVec_xor tMat) m)]
  rfl

theorem polynomialAt_first (p : Row) : polynomialAt p (basisRow 0) = matVec kMat p := (matVec_kMat p).symm

theorem polynomialAt_basisRow (c : Nat) (v : Row) (hc : c < 256) :
    polynomialAt (basisRow c) v = (matVec tMat)^[c] v := by
  rw [polynomialAt, combineRows_basisRow c 0 _ hc, if_pos (Nat.zero_le c)]
  exact rowOf_krylov tMat 256 c v hc

/-- The polynomial at `T` applied to an encoded state, by steps of the state. -/
theorem polynomialAt_encodeState (p : Row) (q : Words4) :
    polynomialAt p (encodeState q) = combineRows p 0 ((List.range 256).map (fun b => encodeState (stepTimes b q))) := by
  rw [polynomialAt, krylov_eq_map]
  simp only [iterate_matVec_tMat]

/-! ## `JumpApply` -/

theorem encodeState_zero : encodeState ⟨0, 0, 0, 0⟩ = 0#256 := by decide

/-- What the loop of `JumpApply` holds after `n` iterations, 43_jump.md R139. -/
theorem jumpApply_loop (j q : Words4) (n : Nat) :
    encodeState ((List.range n).foldl (jumpStep j) (zero4, q)).1
        = combineRows (encodeState j) 0 ((List.range n).map (fun b => encodeState (stepTimes b q))) ∧
    ((List.range n).foldl (jumpStep j) (zero4, q)).2 = stepTimes n q := by
  induction n with
  | zero => exact ⟨encodeState_zero, rfl⟩
  | succ n ih =>
    obtain ⟨hacc, hstate⟩ := ih
    rw [List.range_succ, List.foldl_append, List.map_append, List.foldl_cons, List.foldl_nil, List.map_singleton,
      combineRows_concat, List.length_map, List.length_range, Nat.zero_add, ← hacc, ← hstate]
    refine ⟨?_, ?_⟩
    · rw [jumpStep]
      cases (encodeState j).getLsbD n
      · exact BitVec.xor_zero.symm
      · exact encodeState_xor4 _ _
    · rw [jumpStep, hstate]
      exact (Function.iterate_succ_apply' stateStep n q).symm

/-- JAPPLY evaluates the polynomial of `J` at `T`. -/
theorem encodeState_jumpApply (j q : Words4) :
    encodeState (jumpApply j q) = polynomialAt (encodeState j) (encodeState q) := by
  rw [jumpApply, (jumpApply_loop j q 256).1, polynomialAt_encodeState]

theorem encodeState_injective : Function.Injective encodeState := Function.LeftInverse.injective decodeRow_encodeState

theorem encodeState_second : encodeState ⟨2, 0, 0, 0⟩ = basisRow 1 := by decide

/-- A constant with the single coefficient `n` is `n` steps. -/
theorem jumpApply_of_basisRow (j q : Words4) (n : Nat) (hn : n < 256) (h : encodeState j = basisRow n) :
    jumpApply j q = stepTimes n q := by
  apply encodeState_injective
  rw [encodeState_jumpApply, h, polynomialAt_basisRow n _ hn, iterate_matVec_tMat]

theorem exec_jApply (s : State) : exec .jApply s = .next { s with S := jumpApply s.J s.S } := rfl

/-- Settles O45: `JumpApply` is the polynomial of `J` at `T`, which is linear. -/
theorem jApplyEvaluatesThePolynomial : Obligations.JApplyEvaluatesThePolynomial := by
  refine fun s => ⟨jumpApply s.J s.S, exec_jApply s, ?_, fun hJ => ?zero, fun hJ => ?one, fun hJ => ?two,
    fun hS => ?origin⟩
  · rw [encodeState_jumpApply, polynomialAt_encodeState]
  case zero =>
    apply encodeState_injective
    rw [encodeState_jumpApply, hJ, encodeState_zero]
    exact combineRows_zero 0 _
  case one => exact jumpApply_of_basisRow _ _ 0 (by decide) (by rw [hJ, encodeState_first])
  case two => exact jumpApply_of_basisRow _ _ 1 (by decide) (by rw [hJ, encodeState_second])
  case origin =>
    apply encodeState_injective
    rw [encodeState_jumpApply, hS, encodeState_zero]
    exact linear_zero (polynomialAt_xor _)

end Sys2Proof.Machine
end

/-! # Jump constants: JUMPGEN derives the polynomial of the jump (43_jump.md R125 to R142) -/
section
namespace Sys2Proof.Machine

/-! ## For every matrix -/

/-- Settles O34: the loop of `PowVec` keeps the power that the low bits of the count name. -/
theorem powVecIsRepeatedProduct : Obligations.PowVecIsRepeatedProduct := powVec_eq_iterate

/-- Settles O35: the Krylov matrix undoes its inverse. -/
theorem jumpCoefficientsReproduceTheJump : Obligations.JumpCoefficientsReproduceTheJump := by
  intro M KI n hM hKI hinverse
  rw [← krylov_eq_map, ← matVec_ofColumns _ _ (length_krylov M 256 _), ← krylovMatrix, jumpConstant,
    encodeState_decodeRow, ← matVec_matMul _ KI _ (length_krylovMatrix M) hKI, hinverse, matVec_identity,
    powVec_eq_iterate M n hM]

/-! ## The constant JUMPGEN leaves -/

/-- `j` is the jump constant for `n`: the polynomial whose value at `e0` is `T^n e0`, 43_jump.md R127. -/
def IsJump (j : Words4) (n : Nat) : Prop := matVec kMat (encodeState j) = (matVec tMat)^[n] (basisRow 0)

/-- There is one jump constant for each count, the Krylov vectors being independent. -/
theorem IsJump.unique {j j' : Words4} {n : Nat} (h : IsJump j n) (h' : IsJump j' n) : j = j' :=
  encodeState_injective (matVec_kMat_injective (h.trans h'.symm))

theorem isJump_single (n : Nat) (hn : n < 256) : IsJump (decodeRow (basisRow n)) n := by
  rw [IsJump, encodeState_decodeRow, matVec_kMat_basisRow n hn]

/-- The jump constant for `n` applied to any state is `n` steps: its polynomial and `T^n` commute with `T` and agree at
`e0`, so they agree on the Krylov basis. -/
theorem IsJump.jumpApply_eq {j : Words4} {n : Nat} (h : IsJump j n) (q : Words4) : jumpApply j q = stepTimes n q := by
  have hpower : ∀ a, polynomialAt (encodeState j) (matVec kMat a) = (matVec tMat)^[n] (matVec kMat a) := by
    refine linear_ext (F := fun a => polynomialAt _ (matVec kMat a)) (G := fun a => (matVec tMat)^[n] (matVec kMat a))
      (fun a b => by rw [matVec_xor, polynomialAt_xor])
      (fun a b => by rw [matVec_xor, linear_iterate (matVec_xor tMat)]) (fun c hc => ?_)
    rw [matVec_kMat_basisRow c hc, polynomialAt_iterate, polynomialAt_first, h, ← Function.iterate_add_apply,
      ← Function.iterate_add_apply, Nat.add_comm]
  obtain ⟨a, ha⟩ := matVec_kMat_bijective.surjective (encodeState q)
  apply encodeState_injective
  rw [encodeState_jumpApply, ← ha, hpower, ha, iterate_matVec_tMat]

/-- In a verified state that meets the invariant the stores give the jump constant for every count. -/
theorem MatrixInv.isJump_storedJump {s : State} (h : MatrixInv s) (hV : s.VERIFIED = true) (n : Row) :
    IsJump (storedJump s n) n.toNat := by
  obtain ⟨hT, _, hKI⟩ := h.valid_of_verified hV
  rw [IsJump, storedJump_of_ts s n (h.ts hT), jumpConstant, encodeState_decodeRow,
    (h.kis hKI).matVec_right (length_krylovMatrix _) (length_readMatrix _ _), powVec_eq_iterate tMat n length_tMat]

/-- From every ready state with a count that is not negative JUMPGEN emits the jump constant for the count. -/
theorem Ready.jumpGen {s : State} (hs : Ready s) (hN : s.NEG = false) :
    ∃ t, exec .jumpGen s = .next t ∧ t.ERR_CODE = .none ∧ t.VERIFIED = true ∧ t.J_VALID = true ∧ t.S = s.S ∧
      IsJump t.J s.N.toNat := by
  have h := (inv_iff s).mp hs.inv
  obtain ⟨u, hu⟩ := h.ensureVerified_done
  have hinv := h.ensureVerified
  have hdata := dataOf_ensureVerified s
  rw [hu, stageState_done] at hinv hdata
  have hV := ensureVerified_done_VERIFIED s u hu
  have hcount : u.N = s.N := congrArg DataRegs.N hdata
  refine ⟨emitJump u, exec_jumpGen_done s u hN hu, (ensureVerified_done_ERR_CODE s u hu).trans hs.noFault, hV, rfl,
    congrArg DataRegs.S hdata, ?_⟩
  rw [← hcount]
  exact hinv.isJump_storedJump hV u.N

/-! ## The statements -/

/-- Settles O36: the jump constant for a count below 256 has the one coefficient. -/
theorem smallJumpConstantsAreSingleBits : Obligations.SmallJumpConstantsAreSingleBits := by
  intro s hs hN hcount
  obtain ⟨t, ht, herr, _, hJV, _, hJ⟩ := hs.jumpGen hN
  have hsingle := hJ.unique (isJump_single s.N.toNat (by omega))
  refine ⟨t, ht, herr, hJV, by rw [hsingle, encodeState_decodeRow], fun hzero => ?_⟩
  rw [hsingle, hzero]
  decide

/-- Settles O37: the reference constants are jump constants for their counts, and there is no other. -/
theorem knownAnswersAreReproduced : Obligations.KnownAnswersAreReproduced := by
  intro s hs hN
  obtain ⟨t, ht, _, _, hJV, _, hJ⟩ := hs.jumpGen hN
  refine ⟨fun hcount => ⟨t, ht, hJV, ?_⟩, fun hcount => ⟨t, ht, hJV, ?_⟩⟩ <;> rw [hcount] at hJ
  · exact hJ.unique matVec_kMat_ref128
  · exact hJ.unique matVec_kMat_ref192

/-- Settles O38: JUMPGEN leaves the jump constant for `N`, which is `N` steps on every state. -/
theorem derivedConstantJumpsNSteps : Obligations.DerivedConstantJumpsNSteps := by
  intro s hs hN
  obtain ⟨t, ht, herr, hV, hJV, hS, hJ⟩ := hs.jumpGen hN
  refine ⟨t, ht, herr, hV, hJV, hJ.jumpApply_eq, _, exec_jApply t, ?_⟩
  rw [← hS]
  exact hJ.jumpApply_eq t.S

theorem stepTimes_add (m n : Nat) (q : Words4) : stepTimes n (stepTimes m q) = stepTimes (m + n) q := by
  rw [Nat.add_comm]
  exact (Function.iterate_add_apply stateStep n m q).symm

/-- Settles O39: the steps of the two jumps add up. -/
theorem jumpsCompose : Obligations.JumpsCompose := by
  intro a b c ha hb hc haN hbN hcN hsum
  obtain ⟨a', ha', _, _, _, _, hJa⟩ := ha.jumpGen haN
  obtain ⟨b', hb', _, _, _, _, hJb⟩ := hb.jumpGen hbN
  obtain ⟨c', hc', _, _, _, _, hJc⟩ := hc.jumpGen hcN
  refine ⟨a', b', c', ha', hb', hc', fun q => ?_⟩
  rw [hJa.jumpApply_eq, hJb.jumpApply_eq, hJc.jumpApply_eq, stepTimes_add, hsum]

end Sys2Proof.Machine
end

/-! # NOP and CLRERR (44_system.md R150, R151) -/
section
namespace Sys2Proof.Machine

/-- Settles O46: the rule of NOP answers the state it was given. -/
theorem nopChangesNothing : Obligations.NopChangesNothing := fun _ => rfl

theorem exec_clrErr (s : State) : exec .clrErr s = .next (clearFault s) := rfl

/-- The word of CLRERR runs CLRERR on both sides of RunCommand's test for a recorded fault. -/
theorem runCommand_of_decode_clrErr (word : CmdWord) (s : State) (hword : decode word = .ok .clrErr) :
    runCommand word s = exec .clrErr s := by
  unfold runCommand
  rw [hword]
  exact ite_self _

/-- Settles O47: code by code, each either clearable or not; `0x3F` is the word of CLRERR. -/
theorem clrErrClearsOnlyNonFatalFaults : Obligations.ClrErrClearsOnlyNonFatalFaults := by
  refine fun s => ⟨?_, (portWrite_cmd _ s).trans (runCommand_of_decode_clrErr _ s (decode_encode .clrErr))⟩
  rw [exec_clrErr]
  cases hc : s.ERR_CODE
  case invalidInput => rw [clearFault_clearable s (.inl hc)]
  case illegalCommand => rw [clearFault_clearable s (.inr hc)]
  case none | singular | verifyMismatch => rw [clearFault_not_clearable s (by simp [hc])]

end Sys2Proof.Machine
end

/-! # Illegal words and dropped commands (60_exceptions.md R164, R165) -/
section
namespace Sys2Proof.Machine

/-- With no fault recorded a word that is none of the table's is recorded as illegal. -/
theorem portWrite_cmd_illegal (d : Word) (s : State) (he : s.ERR_CODE = .none)
    (hd : ∀ i, d.extractLsb' 0 32 ≠ Spec.tableWord i) :
    portWrite 0x00#8 d s = .next (raise .illegalCommand ((d.extractLsb' 0 32).setWidth 64) s) := by
  rw [portWrite_cmd_low]
  rcases runCommand_cases (d.extractLsb' 0 32) s with ⟨hne, _⟩ | ⟨hne, _⟩ | ⟨_, _, hr⟩ | ⟨_, i, hi, _⟩
  · exact absurd he hne
  · exact absurd he hne
  · exact hr
  · exact absurd ((decode_eq_ok_iff _ i).mp hi) (hd i)

/-- Settles O48: RunCommand raises IllegalCommand, and CLRERR undoes a raise but for `ERRINFO`. -/
theorem illegalWordIsRecordedAndCleared : Obligations.IllegalWordIsRecordedAndCleared := by
  intro s d he hd
  refine ⟨_, portWrite_cmd_illegal d s he hd, rfl, ?_⟩
  rw [(clrErrClearsOnlyNonFatalFaults _).2, exec_clrErr, clearFault_clearable _ (.inr rfl), ← he]
  rfl

/-- Under a recorded fault a write to `CMD` changes nothing, unless it is CLRERR and the fault is clearable. -/
theorem portWrite_cmd_dropped (d : Word) (s : State) (he : s.ERR_CODE ≠ .none)
    (hd : ¬ (d.extractLsb' 0 32 = 0x0000003F#32 ∧ (s.ERR_CODE = .invalidInput ∨ s.ERR_CODE = .illegalCommand))) :
    portWrite 0x00#8 d s = .next s := by
  rw [(runCommandOrder s d).2, if_pos he, if_neg hd]

/-! ## Only the fault's own registers depend on the fault -/

/-- A write to a register but `CMD` and `CTRL` does the same whatever fault is recorded, 60_exceptions.md R165. -/
theorem portWrite_raise (idx : PortIndex) (d : Word) (s t : State) (f : ErrCode) (info : Word)
    (hcmd : idx ≠ 0x00#8) (hctrl : idx ≠ 0x04#8) (h : portWrite idx d s = .next t) :
    portWrite idx d (raise f info s) = .next (raise f info t) := by
  cases hr : regOfIndex idx with
  | none => rw [portWrite, hr] at h ⊢; cases h; rfl
  | some r =>
    rw [portWrite_of_reg idx r d _ hr] at h ⊢
    obtain rfl := indexOfReg_of_regOfIndex idx r hr
    cases r
    case cmd => exact absurd rfl hcmd
    case ctrl => exact absurd rfl hctrl
    all_goals cases h; rfl

/-- `ERR.CODE` with `ERRINFO`. -/
def faultOf (s : State) : ErrCode × Word := (s.ERR_CODE, s.ERRINFO)

theorem faultOf_eq_iff {s t : State} : faultOf t = faultOf s ↔ t.ERR_CODE = s.ERR_CODE ∧ t.ERRINFO = s.ERRINFO :=
  Prod.mk_inj

/-- Such a write keeps the fault: it does the same when the fault recorded is recorded again. -/
theorem portWrite_keeps_fault (idx : PortIndex) (d : Word) (s t : State) (hcmd : idx ≠ 0x00#8)
    (hctrl : idx ≠ 0x04#8) (h : portWrite idx d s = .next t) : faultOf t = faultOf s := by
  have hagain : portWrite idx d s = .next (raise s.ERR_CODE s.ERRINFO t) :=
    portWrite_raise idx d s t s.ERR_CODE s.ERRINFO hcmd hctrl h
  rw [Host.Outcome.next.inj (h.symm.trans hagain)]
  rfl

/-- A read but of `STATUS`, `ERR` and `ERRINFO` returns the same whatever fault is recorded. -/
theorem portRead_raise (idx : PortIndex) (s : State) (f : ErrCode) (info : Word) (hstatus : idx ≠ 0x01#8)
    (herr : idx ≠ 0x02#8) (hinfo : idx ≠ 0x03#8) : portRead idx (raise f info s) = portRead idx s := by
  cases hr : regOfIndex idx with
  | none => rw [portRead, portRead, hr]
  | some r =>
    rw [portRead_of_reg idx r _ hr, portRead_of_reg idx r _ hr]
    obtain rfl := indexOfReg_of_regOfIndex idx r hr
    cases r
    case status => exact absurd rfl hstatus
    case err => exact absurd rfl herr
    case errInfo => exact absurd rfl hinfo
    all_goals rfl

/-- Settles O49: RunCommand drops the word, and no other register but the fault's own depends on the fault. -/
theorem recordedFaultDropsCommandsOnly : Obligations.RecordedFaultDropsCommandsOnly := by
  refine fun s d he => ⟨portWrite_cmd_dropped d s he, fun idx hcmd hctrl => ?_,
    fun idx hstatus herr hinfo => portRead_raise idx s .none 0 hstatus herr hinfo⟩
  obtain ⟨t, ht⟩ := portWrite_next idx d s
  obtain ⟨hcode, hinfo⟩ := faultOf_eq_iff.mp (portWrite_keeps_fault idx d s t hcmd hctrl ht)
  exact ⟨t, ht, hcode, hinfo, portWrite_raise idx d s t .none 0 hcmd hctrl ht⟩

end Sys2Proof.Machine
end

/-! # A fatal fault holds until a reset (60_exceptions.md R165, R172) -/
section
namespace Sys2Proof.Machine

/-- What an event that does not reset the core keeps under a fatal fault. -/
structure HeldUnderFault (s t : State) : Prop where
  fault : faultOf t = faultOf s
  mem : t.mem = s.mem
  T_VALID : t.T_VALID = s.T_VALID
  K_VALID : t.K_VALID = s.K_VALID
  KI_VALID : t.KI_VALID = s.KI_VALID
  VERIFIED : t.VERIFIED = s.VERIFIED
  J_VALID : t.J_VALID = true → s.J_VALID = true

theorem HeldUnderFault.refl (s : State) : HeldUnderFault s s := ⟨rfl, rfl, rfl, rfl, rfl, rfl, id⟩

theorem not_clearable_of_isFatal (f : ErrCode) (h : isFatal f = true) :
    f ≠ .none ∧ ¬ (f = .invalidInput ∨ f = .illegalCommand) := by
  revert h
  cases f <;> decide

/-- No command runs under a fatal fault: CLRERR does not clear it. -/
theorem portWrite_cmd_fatal (d : Word) (s : State) (hfatal : isFatal s.ERR_CODE = true) :
    portWrite 0x00#8 d s = .next s := by
  obtain ⟨hrecorded, hclearable⟩ := not_clearable_of_isFatal s.ERR_CODE hfatal
  exact portWrite_cmd_dropped d s hrecorded (fun h => hclearable h.2)

theorem portWrite_held (idx : PortIndex) (d : Word) (s t : State) (hfatal : isFatal s.ERR_CODE = true)
    (hreset : (idx == indexOfReg .ctrl && d.getLsbD 0) = false) (h : portWrite idx d s = .next t) :
    HeldUnderFault s t := by
  by_cases hcmd : idx = 0x00#8
  · subst hcmd
    obtain rfl := Host.Outcome.next.inj ((portWrite_cmd_fatal d s hfatal).symm.trans h)
    exact .refl s
  by_cases hctrl : idx = 0x04#8
  · subst hctrl
    have hd : d.getLsbD 0 = false := hreset
    obtain rfl : s = t := by
      rw [portWrite_ctrl, hd] at h
      exact Host.Outcome.next.inj h
    exact .refl s
  · have hflags := flagsOf_portWrite s t idx d hcmd hctrl h
    refine ⟨portWrite_keeps_fault idx d s t hcmd hctrl h, portWrite_mem s t idx d hcmd hctrl h,
      congrArg FlagValues.T_VALID hflags, congrArg FlagValues.K_VALID hflags, congrArg FlagValues.KI_VALID hflags,
      congrArg FlagValues.VERIFIED hflags, fun hJ => ?_⟩
    have hJ' := (congrArg FlagValues.J_VALID hflags).symm.trans hJ
    split at hJ'
    · exact absurd hJ' Bool.false_ne_true
    · exact hJ'

theorem perform_held (e : HostEvent) (s t : State) (hfatal : isFatal s.ERR_CODE = true)
    (hreset : resetsCore e = false) (h : perform e s = .next t) : HeldUnderFault s t := by
  cases e with
  | portRead idx => cases h; exact ⟨rfl, rfl, rfl, rfl, rfl, rfl, id⟩
  | portWrite idx d => exact portWrite_held idx d s t hfatal hreset h
  | rstN => exact absurd hreset.symm Bool.false_ne_true
  | busRead offset size =>
    obtain ⟨_, _, hk⟩ := busAccess_next _ _ _ _ h
    cases hk
    exact ⟨rfl, rfl, rfl, rfl, rfl, rfl, id⟩
  | busWrite offset bytes =>
    obtain ⟨_, _, hk⟩ := busAccess_next _ _ _ _ h
    exact portWrite_held _ _ s t hfatal hreset hk

/-- Settles O51: a write to `CMD` is dropped, and no other access but a reset reaches the fault, the stores or the
flags of the matrices. -/
theorem fatalFaultHoldsUntilReset : Obligations.FatalFaultHoldsUntilReset := by
  intro s t e hfatal he hreset h
  obtain ⟨e', u, he', hu, rfl⟩ := step_next s t h
  obtain rfl : e = e' := Option.some.inj (he.symm.trans he')
  have hdropped : ∀ d, portWrite 0x00#8 d s = .next u → s = u := fun d hd =>
    Host.Outcome.next.inj ((portWrite_cmd_fatal d s hfatal).symm.trans hd)
  refine ⟨?held, fun d hcmd => ?port, fun offset bytes hcmd hidx => ?wrapper⟩
  case held =>
    have hheld := perform_held e s u hfatal hreset hu
    obtain ⟨hcode, hinfo⟩ := faultOf_eq_iff.mp hheld.fault
    exact ⟨hcode, hinfo, hheld.mem, hheld.T_VALID, hheld.K_VALID, hheld.KI_VALID, hheld.VERIFIED, hheld.J_VALID⟩
  case port =>
    subst hcmd
    rw [hdropped d hu]
  case wrapper =>
    subst hcmd
    obtain ⟨_, _, hk⟩ := busAccess_next _ _ _ _ hu
    rw [hidx] at hk
    rw [hdropped _ hk]

end Sys2Proof.Machine
end

/-! # Singular and VerifyMismatch: the state each leaves, and which command records which fault (60_exceptions.md R160,
R163, R166) -/
section
namespace Sys2Proof.Machine

/-! ## Singular -/

/-- An INVK that leaves `KI_VALID` cleared recorded Singular, with the column at which the elimination of store `KS`
fails; the store still holds what was eliminated. -/
theorem exec_invK_failed (s u : State) (h : exec .invK s = .next u) (hKI : u.KI_VALID = false) :
    ∃ c, gaussJordan (readMatrix .KS u) = .fail c ∧
      u = raise .singular (BitVec.ofNat 64 c) (loseKIS (invStart (ensureK s))) := by
  obtain rfl := Host.Outcome.next.inj ((exec_invK s).symm.trans h)
  rw [readMatrix_doInvK .KS _ (by decide)]
  rcases doInvK_cases (ensureK s) with ⟨c, hc, e⟩ | ⟨x, _, e⟩ <;> rw [e] at hKI ⊢
  · exact ⟨c, hc, rfl⟩
  · exact absurd hKI.symm Bool.false_ne_true

theorem toNat_column (c : Nat) (hc : c < 256) : (BitVec.ofNat 64 c).toNat = c := by
  rw [BitVec.toNat_ofNat]; omega

/-- A JUMPGEN whose checks raise ends where INIT ends, if that leaves `J_VALID` cleared. -/
theorem exec_jumpGen_raised_cleared (s u : State) (hN : s.NEG = false) (hu : ensureVerified s = .raised u)
    (hJ : u.J_VALID = false) : exec .jumpGen s = .next u := by
  rw [exec_jumpGen_raised s u hN hu, clearJ, ← hJ]

/-- Settles O31: the raise of DoInvK ends each of the five commands, and none of them does anything before it but build
`T` and `K`. -/
theorem singularEndsEveryCommandThatInverts : Obligations.SingularEndsEveryCommandThatInverts := by
  intro s u hsKI h hKI
  obtain ⟨c, hc, hu⟩ := exec_invK_failed s u h hKI
  have hlt : c < 256 := gaussJordan_fail_lt _ c hc
  have hinfo : u.ERRINFO.toNat = c := by rw [hu]; exact toNat_column c hlt
  have hdata : dataOf u = dataOf s := dataOf_exec .invK s u (by decide) h
  have hraised : ensureKI s = .raised u := by
    rcases ensureKI_of_invK s u hsKI h with ⟨_, _, _, hvalid, _⟩ | ⟨e, _⟩
    · exact absurd (hKI.symm.trans hvalid) Bool.false_ne_true
    · exact e
  obtain ⟨hcode, hT, hK, hV, hJ⟩ : u.ERR_CODE = .singular ∧ u.T_VALID = true ∧ u.K_VALID = true ∧
      u.VERIFIED = false ∧ u.J_VALID = false := by
    rw [hu]; exact ⟨rfl, ensureK_T_VALID s, ensureK_K_VALID s, rfl, rfl⟩
  refine ⟨hcode, hinfo.trans_lt hlt, hinfo ▸ hc, hT, hK, hV, hJ,
    congrArg DataRegs.S hdata, congrArg DataRegs.V hdata, congrArg DataRegs.N hdata, congrArg DataRegs.J hdata,
    congrArg DataRegs.NEG hdata, congrArg DataRegs.MADDR hdata, ?_, ?_, ?_, fun hN => ?_⟩
  · rw [exec_mvmulKI, hraised, andThen_raised, stageState_raised]
  · rw [exec_verify, hraised, andThen_raised, stageState_raised]
  · rw [exec_init, ensureVerified_raised s u hraised, stageState_raised]
  · exact exec_jumpGen_raised_cleared s u hN (ensureVerified_raised s u hraised) hJ

/-! ## VerifyMismatch -/

/-- The first constant that differs gives the information. -/
theorem doVerify_differs (s : State)
    (h : storedJump s (basisRow 128) ≠ Config.ref128 ∨ storedJump s (basisRow 192) ≠ Config.ref192) :
    doVerify s = .raised (raise .verifyMismatch (if storedJump s (basisRow 128) ≠ Config.ref128 then 0 else 1)
      { s with VERIFIED := false, J_VALID := false }) := by
  by_cases h1 : storedJump s (basisRow 128) = Config.ref128
  · rw [if_neg (not_not_intro h1), doVerify_second_differs s h1 (h.resolve_left (not_not_intro h1))]
  · rw [if_pos h1, doVerify_first_differs s h1]

/-- Settles O42: with the stores valid the three commands are DoVerify alone, and it raises. -/
theorem mismatchEndsEveryCommandThatVerifies : Obligations.MismatchEndsEveryCommandThatVerifies := by
  intro s hT hK hKI hV h
  have hraised := doVerify_differs s h
  have hverify := exec_verify_valid hT hK hKI
  rw [hraised, stageState_raised] at hverify
  have hensure : ensureVerified s = doVerify s := by
    rw [ensureVerified_done s s (ensureKI_valid s hT hK hKI), hV, if_neg Bool.false_ne_true]
  exact ⟨_, hverify, (exec_init_unverified hT hK hKI hV).trans hverify,
    fun hN => exec_jumpGen_raised_cleared s _ hN (hensure.trans hraised) rfl,
    rfl, rfl, hT, hK, hKI, rfl, rfl, rfl, rfl, rfl, rfl⟩

/-! ## Which stage records which fault -/

/-- Singular is recorded, with a column, 60_exceptions.md R160. -/
def RecordsSingular (t : State) : Prop := t.ERR_CODE = .singular ∧ t.ERRINFO.toNat < 256

/-- VerifyMismatch is recorded, with the number of the constant, 60_exceptions.md R160. -/
def RecordsMismatch (t : State) : Prop := t.ERR_CODE = .verifyMismatch ∧ (t.ERRINFO = 0 ∨ t.ERRINFO = 1)

/-- One of the two fatal faults is recorded. -/
def RecordsFatal (t : State) : Prop := RecordsSingular t ∨ RecordsMismatch t

/-- A stage that is done keeps the fault of `s`, and one that raised leaves a state with `P`. -/
def Faults (s : State) (P : State → Prop) : Stage → Prop
  | .done u => faultOf u = faultOf s
  | .raised u => P u

theorem Faults.cases {s : State} {P : State → Prop} {x : Stage} (h : Faults s P x) :
    faultOf (stageState x) = faultOf s ∨ P (stageState x) := by
  cases x with
  | done u => exact .inl h
  | raised u => exact .inr h

theorem Faults.of_start {s u : State} {P : State → Prop} {x : Stage} (h : Faults u P x)
    (hu : faultOf u = faultOf s) : Faults s P x := by
  cases x with
  | done v => exact Eq.trans h hu
  | raised v => exact h

/-- A stage, and then another that starts with the fault the first kept. -/
theorem Faults.andThen {s : State} {P Q : State → Prop} {x : Stage} {f : State → Stage} (hx : Faults s P x)
    (hPQ : ∀ u, P u → Q u) (hf : ∀ u, Faults u Q (f u)) : Faults s Q (andThen x f) := by
  cases x with
  | done u => exact (hf u).of_start hx
  | raised u => exact hPQ u hx

theorem faultOf_ensureT (s : State) : faultOf (ensureT s) = faultOf s := by
  rcases ensureT_cases s with ⟨_, e⟩ | ⟨_, e⟩ <;> rw [e]
  rfl

theorem faultOf_ensureK (s : State) : faultOf (ensureK s) = faultOf s := by
  rcases ensureK_cases s with ⟨_, e⟩ | ⟨_, e⟩ <;> rw [e]
  · exact faultOf_ensureT s
  · exact faultOf_ensureT s

theorem doInvK_faults (s : State) : Faults s RecordsSingular (doInvK s) := by
  rcases doInvK_cases s with ⟨c, hc, e⟩ | ⟨x, _, e⟩ <;> rw [e]
  · have hlt := gaussJordan_fail_lt _ c hc
    exact ⟨rfl, (toNat_column c hlt).trans_lt hlt⟩
  · rfl

theorem doInvK_ensureK_faults (s : State) : Faults s RecordsSingular (doInvK (ensureK s)) :=
  (doInvK_faults (ensureK s)).of_start (faultOf_ensureK s)

theorem ensureKI_faults (s : State) : Faults s RecordsSingular (ensureKI s) := by
  rcases ensureKI_cases s with ⟨_, e⟩ | ⟨_, e⟩ <;> rw [e]
  · exact faultOf_ensureK s
  · exact doInvK_ensureK_faults s

theorem doVerify_faults (s : State) : Faults s RecordsFatal (doVerify s) := by
  rcases doVerify_cases s with ⟨_, e⟩ | ⟨_, _, e⟩ | ⟨_, _, e⟩ <;> rw [e]
  · exact .inr ⟨rfl, .inl rfl⟩
  · exact .inr ⟨rfl, .inr rfl⟩
  · rfl

theorem verify_faults (s : State) : Faults s RecordsFatal (andThen (ensureKI s) doVerify) :=
  (ensureKI_faults s).andThen (fun _ => .inl) doVerify_faults

theorem ensureVerified_faults (s : State) : Faults s RecordsFatal (ensureVerified s) := by
  refine (ensureKI_faults s).andThen (fun _ => .inl) (fun u => ?_)
  split
  · rfl
  · exact doVerify_faults u

/-! ## Commands -/

/-- The commands that can invert, 60_exceptions.md R163. -/
def mayInvert : List Instr := [.invK, .verify, .init, .mvmulKI, .jumpGen]

/-- The commands that verify, 60_exceptions.md R166. -/
def mayVerify : List Instr := [.verify, .init, .jumpGen]

/-- A command that cannot invert records no fault, JUMPGEN being one that can. -/
theorem exec_keeps_fault (i : Instr) (s t : State) (hi : i ∉ mayInvert) (hclr : i ≠ .clrErr)
    (h : exec i s = .next t) : faultOf t = faultOf s := by
  cases i <;> injection h with h <;> subst h
  case nop | step | enc | dec | jApply | buildT => rfl
  case buildK | mvmulT => exact faultOf_ensureT s
  case mvmulK => exact faultOf_ensureK s
  case clrErr => exact absurd rfl hclr
  all_goals exact absurd (by decide) hi

/-- INVK and MVMUL.KI invert and do not verify. -/
theorem exec_inversion_fault (i : Instr) (s t : State) (hi : i ∈ [Instr.invK, .mvmulKI]) (h : exec i s = .next t) :
    faultOf t = faultOf s ∨ RecordsSingular t := by
  cases i <;> injection h with h <;> subst h
  case invK => exact (doInvK_ensureK_faults s).cases
  case mvmulKI =>
    have hproduct : ∀ u, Faults u RecordsSingular (.done (multiplyV .KIS u)) := fun _ => rfl
    exact ((ensureKI_faults s).andThen (fun _ h => h) hproduct).cases
  all_goals exact absurd hi (by decide)

/-- VERIFY, INIT and JUMPGEN invert and then verify, and JUMPGEN tests the sign before. -/
theorem exec_verification_fault (i : Instr) (s t : State) (hi : i ∈ mayVerify) (h : exec i s = .next t) :
    (i = .jumpGen ∧ s.NEG = true ∧ t.ERR_CODE = .invalidInput ∧ t.ERRINFO = 0) ∨
    faultOf t = faultOf s ∨ RecordsFatal t := by
  cases i <;> injection h with h <;> subst h
  case verify => exact .inr (verify_faults s).cases
  case init => exact .inr (ensureVerified_faults s).cases
  case jumpGen =>
    cases hN : s.NEG with
    | true => rw [jumpGenStage_negative s hN]; exact .inl ⟨rfl, rfl, rfl, rfl⟩
    | false =>
      have hemit : ∀ u, Faults u RecordsFatal (.done (emitJump u)) := fun _ => rfl
      rw [jumpGenStage_nonnegative s hN]
      exact .inr ((ensureVerified_faults { s with J_VALID := false }).andThen (fun _ h => h) hemit).cases
  all_goals exact absurd hi (by decide)

theorem mem_mayInvert (i : Instr) : i ∈ mayInvert ↔ i ∈ [Instr.invK, .mvmulKI] ∨ i ∈ mayVerify := by
  cases i <;> decide

/-- Settles O50: a stage that is done keeps the fault, and one that raises records its own. -/
theorem faultsComeOnlyFromTheirCauses : Obligations.FaultsComeOnlyFromTheirCauses := by
  intro i s hclr
  obtain ⟨t, ht⟩ := exec_next i s
  simp only [← faultOf_eq_iff]
  refine ⟨t, ht, ?_⟩
  by_cases hinvert : i ∈ mayInvert
  · rcases (mem_mayInvert i).mp hinvert with hi | hi
    · rcases exec_inversion_fault i s t hi ht with hkept | hsingular
      · exact .inl hkept
      · exact .inr (.inr (.inl ⟨hinvert, hsingular⟩))
    · rcases exec_verification_fault i s t hi ht with hsign | hkept | hsingular | hmismatch
      · exact .inr (.inl hsign)
      · exact .inl hkept
      · exact .inr (.inr (.inl ⟨hinvert, hsingular⟩))
      · exact .inr (.inr (.inr ⟨hi, hmismatch⟩))
  · exact .inl (exec_keeps_fault i s t hinvert hclr ht)

end Sys2Proof.Machine
end

/-! # A run of a finite script of defined events reaches its end (00_scope.md R14, 70_reset_and_hazards.md R190) -/
section
namespace Sys2Proof.Machine

/-- Where a script of defined events has an event at the position, the step does not stop: it goes on to the next
position of the same script. -/
theorem step_goes_on (s : State) (hdefined : ∀ e ∈ s.script, e.wf = true) (hpc : s.pc < s.script.length) :
    ∃ t, step s = .next t ∧ t.pc = s.pc + 1 ∧ t.script = s.script := by
  obtain ⟨u, hu⟩ := perform_next s.script[s.pc] s (hdefined _ (List.getElem_mem hpc))
  have hstep : step s = .next { u with pc := u.pc + 1 } := by
    rw [step_event s _ (List.getElem?_eq_getElem hpc), hu, advance_next]
  obtain ⟨hposition, hscript, _⟩ := stepAdvancesPositionAndKeepsScript.1 s _ hstep
  exact ⟨_, hstep, hposition, hscript⟩

/-- A script of defined events runs as many events as are asked for, up to what is left of it. -/
theorem run_goes_on (s : State) (k : Nat) (hdefined : ∀ e ∈ s.script, e.wf = true)
    (hk : s.pc + k ≤ s.script.length) :
    ∃ t : State, Host.Core.run core k s = .next t ∧ t.pc = s.pc + k ∧ t.script = s.script := by
  induction k generalizing s with
  | zero => exact ⟨s, rfl, rfl, rfl⟩
  | succ k ih =>
    obtain ⟨u, hstep, hpc, hscript⟩ := step_goes_on s hdefined (by omega)
    obtain ⟨t, hrun, htpc, htscript⟩ := ih u (by rwa [hscript]) (by rw [hpc, hscript]; omega)
    exact ⟨t, (run_of_step (M := core) k s u hstep).trans hrun, by omega, htscript.trans hscript⟩

/-- Settles O5: each step goes on to the next position, and at the script's length there is no event to perform. -/
theorem everyScriptRunsToItsEnd : Obligations.EveryScriptRunsToItsEnd := by
  intro s k hdefined hk
  obtain ⟨t, hrun, hpc, hscript⟩ := run_goes_on s k hdefined hk
  refine ⟨t, hrun, hpc, hscript, fun hend => step_ended t (List.getElem?_eq_none ?_)⟩
  rw [hscript, hpc, hend]

end Sys2Proof.Machine
end
